-- ==== Sys2Proof/Word.lean ====
section
/-! DEFINITION. The word types of the machine (spec/00_scope.md R4, R5, R6): bits are numbered from 0, the least
significant, and arithmetic on a vector is modulo its width. -/

namespace Sys2Proof

/-- A byte, the unit of data memory (R4, R30). -/
abbrev Byte := BitVec 8

/-- A 32-bit word: an instruction word (R50), or the operand of a word operation (R112). -/
abbrev Word32 := BitVec 32

/-- A 64-bit doubleword: the width of a general register, of HI, of LO and of the pc (R4, R10, R14, R15). -/
abbrev Word := BitVec 64

/-- A general register's number, 0 to 31 (R10). -/
abbrev Reg := Fin 32

/-- The amount of a shift by a constant, 0 to 31 (R142). -/
abbrev ShiftAmount := Fin 32

/-- The 16-bit immediate or offset field (R52). -/
abbrev Imm16 := BitVec 16

/-- The 26-bit index field of J and JAL (R53). -/
abbrev Index26 := BitVec 26

end Sys2Proof
end

