-- ==== Sys2Proof/Config.lean ====
section
/-! DEFINITION. What a platform fixes (the open parameters of spec/00_scope.md R4 and of spec/92_eei_decisions.md, "Open
parameters in one place") and the free values of the machine. -/

namespace Sys2Proof

/-- The byte order of data memory (R30, D6). -/
inductive Endian where
  | little
  | big
deriving DecidableEq, Repr

/-- `RESET_REGS` (R24, R26, D20): what `x[1]` to `x[31]`, HI, LO and a byte of data memory hold at the start of a run where
the host supplies nothing. -/
inductive ResetRegs where
  /-- Any value. -/
  | unspecified
  /-- 0. -/
  | zero
deriving DecidableEq, Repr

/-- The open parameters of the machine (R4). They are fixed for a run: no instruction reads them as data or writes them.
They stand in the state so that every statement about all states is a statement about all their values
(DESIGN CHOICE, safe: notes/assumptions/2.md). -/
structure Params where
  /-- `ENDIAN` (R30). -/
  endian : Endian
  /-- `DATA_MEM_BYTES`: data memory is addresses `0 .. dataMemBytes - 1` (R19, R32). -/
  dataMemBytes : Nat
  /-- `CODE_BASE`: the address of the program's first word, and the pc at reset (R19, R25). -/
  codeBase : Word
  /-- `HALT_WORD`: the word that spells HALT (R59). -/
  haltWord : Word32
  /-- `MULT_WRITES_HI`: a multiply writes the high half of the product to HI; if false HI keeps its value (R171, D17). -/
  multWritesHi : Bool
  /-- `STRICT_DECODE`: a word with a bit set in a field its instruction does not use is reserved (R60, U2). -/
  strictDecode : Bool
  /-- `RESET_REGS` (R24, R26, D20); read by `launch` only. -/
  resetRegs : ResetRegs
deriving DecidableEq, Repr

/-- The free values of the machine: the n-th value drawn where the spec leaves `any value` (LO and HI after a division by zero:
R173, U4; what the host does not supply at the start of a run with `RESET_REGS = unspecified`: R24, R26, U11). It has no body, so nothing can be proved about which value it is
(DESIGN CHOICE, safe: notes/assumptions/5.md, 25.md). -/
opaque Config.freeValue : Nat → Word

end Sys2Proof
end

