-- ==== Sys2Proof/Machine/Platform.lean ====
section
/-! DEFINITION. The default values of the open parameters (spec/00_scope.md R4). -/

namespace Sys2Proof.Machine

/-- The defaults of R4, and for `DATA_MEM_BYTES`, which R4 leaves open, the 4096 of the spec's test vectors
(DESIGN CHOICE, unsafe: notes/assumptions/2.md; the default HALT_WORD is PRESUMED, unsafe: notes/assumptions/11.md). -/
def defaultParams : Params where
  endian := .little
  dataMemBytes := 4096
  codeBase := 0
  haltWord := 0x04000000
  multWritesHi := true
  strictDecode := true
  resetRegs := .unspecified

end Sys2Proof.Machine
end

