-- ==== Sys2Proof/Syntax.lean ====
section
/-! DEFINITION. The instructions (spec/00_scope.md R2), one constructor per row of spec/opcode_table.json, with the operands of
the assembly line in the order of spec/30_encoding.md R67, and the assembly lines of R66 to R69. -/

namespace Sys2Proof

/-- The 70 instructions. Operands are typed, so an instruction cannot name a register above 31 or a field out of range:
the range checks of R69 are on assembly lines (WellFormed.lean). `b`, `beqz`, `bnez` and `nop` are the four spellings
of R64 that stand for words of `beq`, `bne` and `sll`. -/
inductive Instr where
  -- Addition and subtraction (spec/40_add_sub.md)
  /-- `ADD rd, rs, rt` (R100). -/
  | add (rd rs rt : Reg)
  /-- `ADDI rt, rs, immediate` (R101). -/
  | addi (rt rs : Reg) (imm : Imm16)
  /-- `ADDU rd, rs, rt` (R102). -/
  | addu (rd rs rt : Reg)
  /-- `ADDIU rt, rs, immediate` (R103). -/
  | addiu (rt rs : Reg) (imm : Imm16)
  /-- `DADD rd, rs, rt` (R104). -/
  | dadd (rd rs rt : Reg)
  /-- `DADDI rt, rs, immediate` (R105). -/
  | daddi (rt rs : Reg) (imm : Imm16)
  /-- `DADDU rd, rs, rt` (R106). -/
  | daddu (rd rs rt : Reg)
  /-- `DADDIU rt, rs, immediate` (R107). -/
  | daddiu (rt rs : Reg) (imm : Imm16)
  /-- `SUB rd, rs, rt` (R108). -/
  | sub (rd rs rt : Reg)
  /-- `SUBU rd, rs, rt` (R109). -/
  | subu (rd rs rt : Reg)
  /-- `DSUB rd, rs, rt` (R110). -/
  | dsub (rd rs rt : Reg)
  /-- `DSUBU rd, rs, rt` (R111). -/
  | dsubu (rd rs rt : Reg)
  -- Logical operations and LUI (spec/41_logical.md)
  /-- `AND rd, rs, rt` (R120). -/
  | and (rd rs rt : Reg)
  /-- `ANDI rt, rs, immediate` (R121). -/
  | andi (rt rs : Reg) (imm : Imm16)
  /-- `OR rd, rs, rt` (R122). -/
  | or (rd rs rt : Reg)
  /-- `ORI rt, rs, immediate` (R123). -/
  | ori (rt rs : Reg) (imm : Imm16)
  /-- `XOR rd, rs, rt` (R124). -/
  | xor (rd rs rt : Reg)
  /-- `XORI rt, rs, immediate` (R125). -/
  | xori (rt rs : Reg) (imm : Imm16)
  /-- `LUI rt, immediate` (R126). -/
  | lui (rt : Reg) (imm : Imm16)
  -- Shifts (spec/42_shift.md)
  /-- `SLL rd, rt, sa` (R130). -/
  | sll (rd rt : Reg) (sa : ShiftAmount)
  /-- `SLLV rd, rt, rs` (R131). -/
  | sllv (rd rt rs : Reg)
  /-- `SRL rd, rt, sa` (R132). -/
  | srl (rd rt : Reg) (sa : ShiftAmount)
  /-- `SRLV rd, rt, rs` (R133). -/
  | srlv (rd rt rs : Reg)
  /-- `SRA rd, rt, sa` (R134). -/
  | sra (rd rt : Reg) (sa : ShiftAmount)
  /-- `SRAV rd, rt, rs` (R135). -/
  | srav (rd rt rs : Reg)
  /-- `DSLL rd, rt, sa` (R136). -/
  | dsll (rd rt : Reg) (sa : ShiftAmount)
  /-- `DSLLV rd, rt, rs` (R137). -/
  | dsllv (rd rt rs : Reg)
  /-- `DSRL rd, rt, sa` (R138). -/
  | dsrl (rd rt : Reg) (sa : ShiftAmount)
  /-- `DSRLV rd, rt, rs` (R139). -/
  | dsrlv (rd rt rs : Reg)
  /-- `DSRA rd, rt, sa` (R140). -/
  | dsra (rd rt : Reg) (sa : ShiftAmount)
  /-- `DSRAV rd, rt, rs` (R141). -/
  | dsrav (rd rt rs : Reg)
  -- Comparisons and conditional moves (spec/43_compare_move.md)
  /-- `SLT rd, rs, rt` (R150). -/
  | slt (rd rs rt : Reg)
  /-- `SLTI rt, rs, immediate` (R151). -/
  | slti (rt rs : Reg) (imm : Imm16)
  /-- `SLTIU rt, rs, immediate` (R152). -/
  | sltiu (rt rs : Reg) (imm : Imm16)
  /-- `SLTU rd, rs, rt` (R153). -/
  | sltu (rd rs rt : Reg)
  /-- `MOVN rd, rs, rt` (R154). -/
  | movn (rd rs rt : Reg)
  /-- `MOVZ rd, rs, rt` (R155). -/
  | movz (rd rs rt : Reg)
  -- Multiply, divide, HI and LO (spec/44_muldiv.md)
  /-- `MULT rs, rt` (R160). -/
  | mult (rs rt : Reg)
  /-- `MULTU rs, rt` (R161). -/
  | multu (rs rt : Reg)
  /-- `DMULT rs, rt` (R162). -/
  | dmult (rs rt : Reg)
  /-- `DMULTU rs, rt` (R163). -/
  | dmultu (rs rt : Reg)
  /-- `DIV rs, rt` (R164). -/
  | div (rs rt : Reg)
  /-- `DIVU rs, rt` (R165). -/
  | divu (rs rt : Reg)
  /-- `DDIV rs, rt` (R166). -/
  | ddiv (rs rt : Reg)
  /-- `DDIVU rs, rt` (R167). -/
  | ddivu (rs rt : Reg)
  /-- `MFHI rd` (R168). -/
  | mfhi (rd : Reg)
  /-- `MFLO rd` (R169). -/
  | mflo (rd : Reg)
  -- Branches and jumps (spec/45_branch_jump.md)
  /-- `B offset` (R182). -/
  | b (offset : Imm16)
  /-- `BEQ rs, rt, offset` (R183). -/
  | beq (rs rt : Reg) (offset : Imm16)
  /-- `BEQZ rs, offset` (R184). -/
  | beqz (rs : Reg) (offset : Imm16)
  /-- `BGEZ rs, offset` (R185). -/
  | bgez (rs : Reg) (offset : Imm16)
  /-- `BNE rs, rt, offset` (R186). -/
  | bne (rs rt : Reg) (offset : Imm16)
  /-- `BNEZ rs, offset` (R187). -/
  | bnez (rs : Reg) (offset : Imm16)
  /-- `J target` (R188). -/
  | j (index : Index26)
  /-- `JAL target` (R189). -/
  | jal (index : Index26)
  /-- `JALR rd, rs`; the one-operand form `JALR rs` is `rd = 31` (R190). -/
  | jalr (rd rs : Reg)
  /-- `JR rs` (R191). -/
  | jr (rs : Reg)
  -- Loads and stores (spec/46_load_store.md)
  /-- `LB rt, offset(base)` (R201). -/
  | lb (rt : Reg) (offset : Imm16) (base : Reg)
  /-- `LBU rt, offset(base)` (R202). -/
  | lbu (rt : Reg) (offset : Imm16) (base : Reg)
  /-- `LD rt, offset(base)` (R203). -/
  | ld (rt : Reg) (offset : Imm16) (base : Reg)
  /-- `LH rt, offset(base)` (R204). -/
  | lh (rt : Reg) (offset : Imm16) (base : Reg)
  /-- `LHU rt, offset(base)` (R205). -/
  | lhu (rt : Reg) (offset : Imm16) (base : Reg)
  /-- `LW rt, offset(base)` (R206). -/
  | lw (rt : Reg) (offset : Imm16) (base : Reg)
  /-- `LWU rt, offset(base)` (R207). -/
  | lwu (rt : Reg) (offset : Imm16) (base : Reg)
  /-- `SW rt, offset(base)` (R208). -/
  | sw (rt : Reg) (offset : Imm16) (base : Reg)
  /-- `SB rt, offset(base)` (R209). -/
  | sb (rt : Reg) (offset : Imm16) (base : Reg)
  /-- `SD rt, offset(base)` (R210). -/
  | sd (rt : Reg) (offset : Imm16) (base : Reg)
  /-- `SH rt, offset(base)` (R211). -/
  | sh (rt : Reg) (offset : Imm16) (base : Reg)
  -- HALT and NOP (spec/47_halt_nop.md)
  /-- `HALT` (R220). -/
  | halt
  /-- `NOP` (R221). -/
  | nop
deriving DecidableEq, Repr

/-- A mnemonic of the assembly language: one for each of the 70 instructions (R2, R66). -/
inductive Mnemonic where
  | add | addi | addu | addiu | and | andi | b | beq | beqz | bgez
  | bne | bnez | dadd | daddi | daddu | daddiu | ddiv | ddivu | div | divu
  | dmult | dmultu | dsll | dsllv | dsra | dsrav | dsrl | dsrlv | dsub | dsubu
  | halt | j | jal | jalr | jr | lb | lbu | ld | lh | lhu
  | lui | lw | lwu | mfhi | mflo | movn | movz | mult | multu | nop
  | or | ori | sll | sllv | slt | slti | sltiu | sltu | sra | srav
  | srl | srlv | sw | sb | sd | sh | sub | subu | xor | xori
deriving DecidableEq, Repr

/-- One operand of an assembly line, as written (R66). -/
inductive AsmOperand where
  /-- `r<n>`. -/
  | reg (n : Nat)
  /-- An integer: an immediate, a shift amount, or an explicit field value of a branch or a jump. -/
  | num (v : Int)
  /-- A label, given by its code address. -/
  | label (address : Word)
  /-- `offset(base)`, the address of a load or store. -/
  | mem (offset : Int) (base : Nat)
deriving DecidableEq, Repr

/-- One line of assembly: a mnemonic and its operands in the order written (R66). -/
structure AsmLine where
  mnemonic : Mnemonic
  operands : List AsmOperand
deriving DecidableEq, Repr

/-- The syntax classes of R67. -/
inductive SyntaxClass where
  /-- `OP rd, rs, rt`. -/
  | rdRsRt
  /-- `OP rt, rs, immediate`, the immediate signed. -/
  | rtRsSigned
  /-- `OP rt, rs, immediate`, the immediate unsigned. -/
  | rtRsUnsigned
  /-- `OP rt, immediate`. -/
  | rtUnsigned
  /-- `OP rd, rt, sa`. -/
  | rdRtSa
  /-- `OP rd, rt, rs`. -/
  | rdRtRs
  /-- `OP rs, rt`. -/
  | rsRt
  /-- `OP rd`. -/
  | rdOnly
  /-- `OP rs, rt, offset`, the offset a branch operand. -/
  | rsRtBranch
  /-- `OP rs, offset`. -/
  | rsBranch
  /-- `OP offset`. -/
  | branchOnly
  /-- `OP target`. -/
  | jumpTarget
  /-- `OP rs`. -/
  | rsOnly
  /-- `JALR rs` or `JALR rd, rs`. -/
  | linkRegister
  /-- `OP rt, offset(base)`. -/
  | rtMem
  /-- `OP` with no operand. -/
  | bare
deriving DecidableEq, Repr

end Sys2Proof
end

