-- ==== Sys2Proof/WellFormed.lean ====
section
/-! DEFINITION. What may be written: the checks of an assembly line (spec/30_encoding.md R67, R68, R69), the check of the open
parameters (spec/00_scope.md R4), and which instructions a word can spell (R61, R64). -/

namespace Sys2Proof

/-- The syntax class of each mnemonic (the table of R67). -/
def Mnemonic.syntaxClass : Mnemonic → SyntaxClass
  | .add | .addu | .sub | .subu | .dadd | .daddu | .dsub | .dsubu => .rdRsRt
  | .and | .or | .xor | .slt | .sltu | .movn | .movz => .rdRsRt
  | .addi | .addiu | .daddi | .daddiu | .slti | .sltiu => .rtRsSigned
  | .andi | .ori | .xori => .rtRsUnsigned
  | .lui => .rtUnsigned
  | .sll | .srl | .sra | .dsll | .dsrl | .dsra => .rdRtSa
  | .sllv | .srlv | .srav | .dsllv | .dsrlv | .dsrav => .rdRtRs
  | .mult | .multu | .dmult | .dmultu | .div | .divu | .ddiv | .ddivu => .rsRt
  | .mfhi | .mflo => .rdOnly
  | .beq | .bne => .rsRtBranch
  | .beqz | .bnez | .bgez => .rsBranch
  | .b => .branchOnly
  | .j | .jal => .jumpTarget
  | .jr => .rsOnly
  | .jalr => .linkRegister
  | .lb | .lbu | .lh | .lhu | .lw | .lwu | .ld | .sb | .sh | .sw | .sd => .rtMem
  | .halt | .nop => .bare

/-- A register operand is `r0` to `r31` (R66). -/
def AsmOperand.isReg : AsmOperand → Bool
  | .reg n => decide (n < 32)
  | _ => false

/-- A value that a signed 16-bit field holds: `-32768 .. 32767`, or the same field as a pattern `0x0000 .. 0xFFFF` (R69). An
operand keeps the value and not how it was written, so 32768 to 65535 are admitted in decimal too, as the pattern of the same
value: decimal 40000 is the field `0x9C40`, where R69 leaves open whether a pattern may be written in decimal (DESIGN CHOICE,
safe: notes/assumptions/17.md). -/
def fitsSignedField (v : Int) : Bool := decide (-32768 ≤ v ∧ v ≤ 65535)

/-- A signed immediate (R69). -/
def AsmOperand.isSigned : AsmOperand → Bool
  | .num v => fitsSignedField v
  | _ => false

/-- An unsigned immediate, `0 .. 65535` (R69). -/
def AsmOperand.isUnsigned : AsmOperand → Bool
  | .num v => decide (0 ≤ v ∧ v ≤ 65535)
  | _ => false

/-- A shift amount, `0 .. 31` (R69). -/
def AsmOperand.isShift : AsmOperand → Bool
  | .num v => decide (0 ≤ v ∧ v ≤ 31)
  | _ => false

/-- The address of a load or store: a signed offset and a base register (R67, R69). -/
def AsmOperand.isMem : AsmOperand → Bool
  | .mem v n => fitsSignedField v && decide (n < 32)
  | _ => false

/-- The distance from the instruction after the branch at `pc` to `target`, as a signed number of bytes modulo `2^64` (R68;
the wrap-around is a DESIGN CHOICE, safe: notes/assumptions/17.md). -/
def branchDistance (pc target : Word) : Int := (target - (pc + 4)).toInt

/-- A branch operand: an explicit field value, in the range of `fitsSignedField` (R68 and R69 give an explicit branch operand
none: DESIGN CHOICE, safe: notes/assumptions/17.md), or a label a multiple of 4 bytes and at most 32768 instructions away (R68, R69). -/
def AsmOperand.isBranchTarget (pc : Word) : AsmOperand → Bool
  | .num v => fitsSignedField v
  | .label l => decide (branchDistance pc l % 4 = 0 ∧ -32768 ≤ branchDistance pc l / 4 ∧ branchDistance pc l / 4 ≤ 32767)
  | _ => false

/-- A jump operand: an explicit field value, what the 26-bit field holds (DESIGN CHOICE, safe: notes/assumptions/17.md), or a
label that is a multiple of 4 in the 256 MB region of `pc + 4` (R68). -/
def AsmOperand.isJumpTarget (pc : Word) : AsmOperand → Bool
  | .num v => decide (0 ≤ v ∧ v < 67108864)
  | .label l => decide (l.toNat % 4 = 0 ∧ l.extractLsb' 28 36 = (pc + 4).extractLsb' 28 36)
  | _ => false

/-- An assembly line that the assembler accepts at code address `pc`: the operands are those of the mnemonic's syntax class
(R67), each in its range (R68, R69). -/
def AsmLine.wellFormed (pc : Word) (l : AsmLine) : Bool :=
  match l.mnemonic.syntaxClass, l.operands with
  | .rdRsRt, [a, b, c] => a.isReg && b.isReg && c.isReg
  | .rtRsSigned, [a, b, c] => a.isReg && b.isReg && c.isSigned
  | .rtRsUnsigned, [a, b, c] => a.isReg && b.isReg && c.isUnsigned
  | .rtUnsigned, [a, b] => a.isReg && b.isUnsigned
  | .rdRtSa, [a, b, c] => a.isReg && b.isReg && c.isShift
  | .rdRtRs, [a, b, c] => a.isReg && b.isReg && c.isReg
  | .rsRt, [a, b] => a.isReg && b.isReg
  | .rdOnly, [a] => a.isReg
  | .rsRtBranch, [a, b, c] => a.isReg && b.isReg && c.isBranchTarget pc
  | .rsBranch, [a, b] => a.isReg && b.isBranchTarget pc
  | .branchOnly, [a] => a.isBranchTarget pc
  | .jumpTarget, [a] => a.isJumpTarget pc
  | .rsOnly, [a] => a.isReg
  | .linkRegister, [a] => a.isReg
  | .linkRegister, [a, b] => a.isReg && b.isReg
  | .rtMem, [a, b] => a.isReg && b.isMem
  | .bare, [] => true
  | _, _ => false

/-- The check of the memory parameters: data memory is a multiple of 8 bytes, at least 8 (R4), and `CODE_BASE` is a multiple
of 4 (DEDUCED from R15, R16 and R25, safe: notes/assumptions/2.md). -/
def Params.geometryOk (p : Params) : Bool :=
  decide (8 ≤ p.dataMemBytes ∧ p.dataMemBytes % 8 = 0 ∧ p.codeBase.toNat % 4 = 0)

/-- The 66 instructions a word can spell: all but the four spellings of R64, whose words are those of BEQ, BNE and SLL (R61). -/
def Instr.isCore : Instr → Bool
  | .nop | .b _ | .beqz _ _ | .bnez _ _ => false
  | _ => true

end Sys2Proof
end

