-- ==== Sys2Proof/Decode.lean ====
section
/-! DEFINITION. Reading an instruction word (spec/30_encoding.md R50 to R63) and writing one (R55, R58, R64). -/

namespace Sys2Proof

/-! ### The fields of a word (R50 to R53) -/

/-- The major opcode, bits 31:26 (R50). -/
def opcodeField (w : Word32) : BitVec 6 := w.extractLsb' 26 6

/-- The function code of the R format, bits 5:0 (R51). -/
def functField (w : Word32) : BitVec 6 := w.extractLsb' 0 6

/-- `rs`, and `base` of a load or store, bits 25:21 (R51, R52, R55). -/
def rsField (w : Word32) : Reg := (w.extractLsb' 21 5).toFin

/-- `rt`, bits 20:16 (R51, R52). -/
def rtField (w : Word32) : Reg := (w.extractLsb' 16 5).toFin

/-- `rd`, bits 15:11 (R51). -/
def rdField (w : Word32) : Reg := (w.extractLsb' 11 5).toFin

/-- `sa`, bits 10:6 (R51). -/
def saField (w : Word32) : ShiftAmount := (w.extractLsb' 6 5).toFin

/-- The immediate or offset, bits 15:0 (R52). -/
def immField (w : Word32) : Imm16 := w.extractLsb' 0 16

/-- The index of J and JAL, bits 25:0 (R53). -/
def indexField (w : Word32) : Index26 := w.extractLsb' 0 26

/-! ### Decoding -/

/-- The instruction `i` of a word whose unused fields are `fields`: under strict decode it is refused unless they are zero
(R60); with `STRICT_DECODE = false` they are ignored (U2). -/
def unused (strict : Bool) (fields : List (Fin 32)) (i : Instr) : Option Instr :=
  if strict && fields.any (fun f => f != 0) then none else some i

/-- The words of major opcode 000000, by their function code (R57). -/
def decodeSpecial (strict : Bool) (w : Word32) : Option Instr :=
  match functField w with
  | 0b000000#6 => unused strict [rsField w] (.sll (rdField w) (rtField w) (saField w))
  | 0b000010#6 => unused strict [rsField w] (.srl (rdField w) (rtField w) (saField w))
  | 0b000011#6 => unused strict [rsField w] (.sra (rdField w) (rtField w) (saField w))
  | 0b000100#6 => unused strict [saField w] (.sllv (rdField w) (rtField w) (rsField w))
  | 0b000110#6 => unused strict [saField w] (.srlv (rdField w) (rtField w) (rsField w))
  | 0b000111#6 => unused strict [saField w] (.srav (rdField w) (rtField w) (rsField w))
  | 0b001000#6 => unused strict [rtField w, rdField w, saField w] (.jr (rsField w))
  | 0b001001#6 => unused strict [rtField w, saField w] (.jalr (rdField w) (rsField w))
  | 0b001010#6 => unused strict [saField w] (.movz (rdField w) (rsField w) (rtField w))
  | 0b001011#6 => unused strict [saField w] (.movn (rdField w) (rsField w) (rtField w))
  | 0b010000#6 => unused strict [rsField w, rtField w, saField w] (.mfhi (rdField w))
  | 0b010010#6 => unused strict [rsField w, rtField w, saField w] (.mflo (rdField w))
  | 0b010100#6 => unused strict [saField w] (.dsllv (rdField w) (rtField w) (rsField w))
  | 0b010110#6 => unused strict [saField w] (.dsrlv (rdField w) (rtField w) (rsField w))
  | 0b010111#6 => unused strict [saField w] (.dsrav (rdField w) (rtField w) (rsField w))
  | 0b011000#6 => unused strict [rdField w, saField w] (.mult (rsField w) (rtField w))
  | 0b011001#6 => unused strict [rdField w, saField w] (.multu (rsField w) (rtField w))
  | 0b011010#6 => unused strict [rdField w, saField w] (.div (rsField w) (rtField w))
  | 0b011011#6 => unused strict [rdField w, saField w] (.divu (rsField w) (rtField w))
  | 0b011100#6 => unused strict [rdField w, saField w] (.dmult (rsField w) (rtField w))
  | 0b011101#6 => unused strict [rdField w, saField w] (.dmultu (rsField w) (rtField w))
  | 0b011110#6 => unused strict [rdField w, saField w] (.ddiv (rsField w) (rtField w))
  | 0b011111#6 => unused strict [rdField w, saField w] (.ddivu (rsField w) (rtField w))
  | 0b100000#6 => unused strict [saField w] (.add (rdField w) (rsField w) (rtField w))
  | 0b100001#6 => unused strict [saField w] (.addu (rdField w) (rsField w) (rtField w))
  | 0b100010#6 => unused strict [saField w] (.sub (rdField w) (rsField w) (rtField w))
  | 0b100011#6 => unused strict [saField w] (.subu (rdField w) (rsField w) (rtField w))
  | 0b100100#6 => unused strict [saField w] (.and (rdField w) (rsField w) (rtField w))
  | 0b100101#6 => unused strict [saField w] (.or (rdField w) (rsField w) (rtField w))
  | 0b100110#6 => unused strict [saField w] (.xor (rdField w) (rsField w) (rtField w))
  | 0b101010#6 => unused strict [saField w] (.slt (rdField w) (rsField w) (rtField w))
  | 0b101011#6 => unused strict [saField w] (.sltu (rdField w) (rsField w) (rtField w))
  | 0b101100#6 => unused strict [saField w] (.dadd (rdField w) (rsField w) (rtField w))
  | 0b101101#6 => unused strict [saField w] (.daddu (rdField w) (rsField w) (rtField w))
  | 0b101110#6 => unused strict [saField w] (.dsub (rdField w) (rsField w) (rtField w))
  | 0b101111#6 => unused strict [saField w] (.dsubu (rdField w) (rsField w) (rtField w))
  | 0b111000#6 => unused strict [rsField w] (.dsll (rdField w) (rtField w) (saField w))
  | 0b111010#6 => unused strict [rsField w] (.dsrl (rdField w) (rtField w) (saField w))
  | 0b111011#6 => unused strict [rsField w] (.dsra (rdField w) (rtField w) (saField w))
  | _ => none

/-- The 65 rows of R58 that are neither idioms nor HALT, by the major opcode (R56); every other word is reserved (R62). -/
def decodeRow (strict : Bool) (w : Word32) : Option Instr :=
  match opcodeField w with
  | 0b000000#6 => decodeSpecial strict w
  | 0b000001#6 => if rtField w = 1 then some (.bgez (rsField w) (immField w)) else none
  | 0b000010#6 => some (.j (indexField w))
  | 0b000011#6 => some (.jal (indexField w))
  | 0b000100#6 => some (.beq (rsField w) (rtField w) (immField w))
  | 0b000101#6 => some (.bne (rsField w) (rtField w) (immField w))
  | 0b001000#6 => some (.addi (rtField w) (rsField w) (immField w))
  | 0b001001#6 => some (.addiu (rtField w) (rsField w) (immField w))
  | 0b001010#6 => some (.slti (rtField w) (rsField w) (immField w))
  | 0b001011#6 => some (.sltiu (rtField w) (rsField w) (immField w))
  | 0b001100#6 => some (.andi (rtField w) (rsField w) (immField w))
  | 0b001101#6 => some (.ori (rtField w) (rsField w) (immField w))
  | 0b001110#6 => some (.xori (rtField w) (rsField w) (immField w))
  | 0b001111#6 => unused strict [rsField w] (.lui (rtField w) (immField w))
  | 0b011000#6 => some (.daddi (rtField w) (rsField w) (immField w))
  | 0b011001#6 => some (.daddiu (rtField w) (rsField w) (immField w))
  | 0b100000#6 => some (.lb (rtField w) (immField w) (rsField w))
  | 0b100001#6 => some (.lh (rtField w) (immField w) (rsField w))
  | 0b100011#6 => some (.lw (rtField w) (immField w) (rsField w))
  | 0b100100#6 => some (.lbu (rtField w) (immField w) (rsField w))
  | 0b100101#6 => some (.lhu (rtField w) (immField w) (rsField w))
  | 0b100111#6 => some (.lwu (rtField w) (immField w) (rsField w))
  | 0b101000#6 => some (.sb (rtField w) (immField w) (rsField w))
  | 0b101001#6 => some (.sh (rtField w) (immField w) (rsField w))
  | 0b101011#6 => some (.sw (rtField w) (immField w) (rsField w))
  | 0b110111#6 => some (.ld (rtField w) (immField w) (rsField w))
  | 0b111111#6 => some (.sd (rtField w) (immField w) (rsField w))
  | _ => none

/-- The instruction that a fetched word spells, or none for a reserved word (R61, R62): HALT_WORD is tested first. -/
def decode (p : Params) (w : Word32) : Option Instr :=
  if w = p.haltWord then some .halt else decodeRow p.strictDecode w

/-- The parameters the model admits: the memory geometry of R4, and a HALT_WORD that matches no other row (R59). R59 exempts a
HALT_WORD that matches another row because it was chosen on purpose; no parameter tells a purpose, and the model admits no such
word (DESIGN CHOICE, safe: notes/assumptions/18.md). `decode` and `step` are defined for it all the same. -/
def Params.wellFormed (p : Params) : Bool :=
  p.geometryOk && (decodeRow p.strictDecode p.haltWord).isNone

/-! ### Encoding -/

/-- A 5-bit field. -/
def field5 (n : Fin 32) : BitVec 5 := BitVec.ofFin n

/-- An R-format word of major opcode 000000 (R51). -/
def rWord (rs rt rd sa : Fin 32) (funct : BitVec 6) : Word32 :=
  0b000000#6 ++ field5 rs ++ field5 rt ++ field5 rd ++ field5 sa ++ funct

/-- An I-format word (R52). -/
def iWord (op : BitVec 6) (rs rt : Fin 32) (imm : Imm16) : Word32 :=
  op ++ field5 rs ++ field5 rt ++ imm

/-- A J-format word (R53). -/
def jWord (op : BitVec 6) (index : Index26) : Word32 :=
  op ++ index

/-- The word of an instruction (R55, R58), an idiom's being that of R64. Fields an instruction does not use are zero (R60). -/
def encode (p : Params) : Instr → Word32
  | .add rd rs rt => rWord rs rt rd 0 0b100000
  | .addi rt rs imm => iWord 0b001000 rs rt imm
  | .addu rd rs rt => rWord rs rt rd 0 0b100001
  | .addiu rt rs imm => iWord 0b001001 rs rt imm
  | .dadd rd rs rt => rWord rs rt rd 0 0b101100
  | .daddi rt rs imm => iWord 0b011000 rs rt imm
  | .daddu rd rs rt => rWord rs rt rd 0 0b101101
  | .daddiu rt rs imm => iWord 0b011001 rs rt imm
  | .sub rd rs rt => rWord rs rt rd 0 0b100010
  | .subu rd rs rt => rWord rs rt rd 0 0b100011
  | .dsub rd rs rt => rWord rs rt rd 0 0b101110
  | .dsubu rd rs rt => rWord rs rt rd 0 0b101111
  | .and rd rs rt => rWord rs rt rd 0 0b100100
  | .andi rt rs imm => iWord 0b001100 rs rt imm
  | .or rd rs rt => rWord rs rt rd 0 0b100101
  | .ori rt rs imm => iWord 0b001101 rs rt imm
  | .xor rd rs rt => rWord rs rt rd 0 0b100110
  | .xori rt rs imm => iWord 0b001110 rs rt imm
  | .lui rt imm => iWord 0b001111 0 rt imm
  | .sll rd rt sa => rWord 0 rt rd sa 0b000000
  | .sllv rd rt rs => rWord rs rt rd 0 0b000100
  | .srl rd rt sa => rWord 0 rt rd sa 0b000010
  | .srlv rd rt rs => rWord rs rt rd 0 0b000110
  | .sra rd rt sa => rWord 0 rt rd sa 0b000011
  | .srav rd rt rs => rWord rs rt rd 0 0b000111
  | .dsll rd rt sa => rWord 0 rt rd sa 0b111000
  | .dsllv rd rt rs => rWord rs rt rd 0 0b010100
  | .dsrl rd rt sa => rWord 0 rt rd sa 0b111010
  | .dsrlv rd rt rs => rWord rs rt rd 0 0b010110
  | .dsra rd rt sa => rWord 0 rt rd sa 0b111011
  | .dsrav rd rt rs => rWord rs rt rd 0 0b010111
  | .slt rd rs rt => rWord rs rt rd 0 0b101010
  | .slti rt rs imm => iWord 0b001010 rs rt imm
  | .sltiu rt rs imm => iWord 0b001011 rs rt imm
  | .sltu rd rs rt => rWord rs rt rd 0 0b101011
  | .movn rd rs rt => rWord rs rt rd 0 0b001011
  | .movz rd rs rt => rWord rs rt rd 0 0b001010
  | .mult rs rt => rWord rs rt 0 0 0b011000
  | .multu rs rt => rWord rs rt 0 0 0b011001
  | .dmult rs rt => rWord rs rt 0 0 0b011100
  | .dmultu rs rt => rWord rs rt 0 0 0b011101
  | .div rs rt => rWord rs rt 0 0 0b011010
  | .divu rs rt => rWord rs rt 0 0 0b011011
  | .ddiv rs rt => rWord rs rt 0 0 0b011110
  | .ddivu rs rt => rWord rs rt 0 0 0b011111
  | .mfhi rd => rWord 0 0 rd 0 0b010000
  | .mflo rd => rWord 0 0 rd 0 0b010010
  | .b offset => iWord 0b000100 0 0 offset
  | .beq rs rt offset => iWord 0b000100 rs rt offset
  | .beqz rs offset => iWord 0b000100 rs 0 offset
  | .bgez rs offset => iWord 0b000001 rs 1 offset
  | .bne rs rt offset => iWord 0b000101 rs rt offset
  | .bnez rs offset => iWord 0b000101 rs 0 offset
  | .j index => jWord 0b000010 index
  | .jal index => jWord 0b000011 index
  | .jalr rd rs => rWord rs 0 rd 0 0b001001
  | .jr rs => rWord rs 0 0 0 0b001000
  | .lb rt offset base => iWord 0b100000 base rt offset
  | .lbu rt offset base => iWord 0b100100 base rt offset
  | .ld rt offset base => iWord 0b110111 base rt offset
  | .lh rt offset base => iWord 0b100001 base rt offset
  | .lhu rt offset base => iWord 0b100101 base rt offset
  | .lw rt offset base => iWord 0b100011 base rt offset
  | .lwu rt offset base => iWord 0b100111 base rt offset
  | .sw rt offset base => iWord 0b101011 base rt offset
  | .sb rt offset base => iWord 0b101000 base rt offset
  | .sd rt offset base => iWord 0b111111 base rt offset
  | .sh rt offset base => iWord 0b101001 base rt offset
  | .halt => p.haltWord
  | .nop => rWord 0 0 0 0 0b000000

/-- The core instruction that an idiom assembles to, or none for an instruction that is no idiom (R64). -/
def Instr.idiomOf : Instr → Option Instr
  | .nop => some (.sll 0 0 0)
  | .b offset => some (.beq 0 0 offset)
  | .beqz rs offset => some (.beq rs 0 offset)
  | .bnez rs offset => some (.bne rs 0 offset)
  | _ => none

/-- The core instruction whose word an instruction has: itself, but for the four idioms of R64. -/
def Instr.expand (i : Instr) : Instr := i.idiomOf.getD i

/-! ### The opcode table -/

/-- A row of the table of R58: a word `w` spells the row's instruction when `w & mask = match`. -/
structure OpcodeRow where
  mnemonic : String
  bits : Word32
  mask : Word32
  idiom : Bool
deriving DecidableEq, Repr

/-- Rows 1 to 18 of the table of R58. -/
def opcodeRows1 : List OpcodeRow :=
  [
   ⟨"ADD", 0x00000020, 0xFC0007FF, false⟩,
   ⟨"ADDI", 0x20000000, 0xFC000000, false⟩,
   ⟨"ADDU", 0x00000021, 0xFC0007FF, false⟩,
   ⟨"ADDIU", 0x24000000, 0xFC000000, false⟩,
   ⟨"AND", 0x00000024, 0xFC0007FF, false⟩,
   ⟨"ANDI", 0x30000000, 0xFC000000, false⟩,
   ⟨"B", 0x10000000, 0xFFFF0000, true⟩,
   ⟨"BEQ", 0x10000000, 0xFC000000, false⟩,
   ⟨"BEQZ", 0x10000000, 0xFC1F0000, true⟩,
   ⟨"BGEZ", 0x04010000, 0xFC1F0000, false⟩,
   ⟨"BNE", 0x14000000, 0xFC000000, false⟩,
   ⟨"BNEZ", 0x14000000, 0xFC1F0000, true⟩,
   ⟨"DADD", 0x0000002C, 0xFC0007FF, false⟩,
   ⟨"DADDI", 0x60000000, 0xFC000000, false⟩,
   ⟨"DADDU", 0x0000002D, 0xFC0007FF, false⟩,
   ⟨"DADDIU", 0x64000000, 0xFC000000, false⟩,
   ⟨"DDIV", 0x0000001E, 0xFC00FFFF, false⟩,
   ⟨"DDIVU", 0x0000001F, 0xFC00FFFF, false⟩]

/-- Rows 19 to 36 of the table of R58. -/
def opcodeRows2 : List OpcodeRow :=
  [
   ⟨"DIV", 0x0000001A, 0xFC00FFFF, false⟩,
   ⟨"DIVU", 0x0000001B, 0xFC00FFFF, false⟩,
   ⟨"DMULT", 0x0000001C, 0xFC00FFFF, false⟩,
   ⟨"DMULTU", 0x0000001D, 0xFC00FFFF, false⟩,
   ⟨"DSLL", 0x00000038, 0xFFE0003F, false⟩,
   ⟨"DSLLV", 0x00000014, 0xFC0007FF, false⟩,
   ⟨"DSRA", 0x0000003B, 0xFFE0003F, false⟩,
   ⟨"DSRAV", 0x00000017, 0xFC0007FF, false⟩,
   ⟨"DSRL", 0x0000003A, 0xFFE0003F, false⟩,
   ⟨"DSRLV", 0x00000016, 0xFC0007FF, false⟩,
   ⟨"DSUB", 0x0000002E, 0xFC0007FF, false⟩,
   ⟨"DSUBU", 0x0000002F, 0xFC0007FF, false⟩,
   ⟨"HALT", 0x04000000, 0xFFFFFFFF, false⟩,
   ⟨"J", 0x08000000, 0xFC000000, false⟩,
   ⟨"JAL", 0x0C000000, 0xFC000000, false⟩,
   ⟨"JALR", 0x00000009, 0xFC1F07FF, false⟩,
   ⟨"JR", 0x00000008, 0xFC1FFFFF, false⟩,
   ⟨"LB", 0x80000000, 0xFC000000, false⟩]

/-- Rows 37 to 54 of the table of R58. -/
def opcodeRows3 : List OpcodeRow :=
  [
   ⟨"LBU", 0x90000000, 0xFC000000, false⟩,
   ⟨"LD", 0xDC000000, 0xFC000000, false⟩,
   ⟨"LH", 0x84000000, 0xFC000000, false⟩,
   ⟨"LHU", 0x94000000, 0xFC000000, false⟩,
   ⟨"LUI", 0x3C000000, 0xFFE00000, false⟩,
   ⟨"LW", 0x8C000000, 0xFC000000, false⟩,
   ⟨"LWU", 0x9C000000, 0xFC000000, false⟩,
   ⟨"MFHI", 0x00000010, 0xFFFF07FF, false⟩,
   ⟨"MFLO", 0x00000012, 0xFFFF07FF, false⟩,
   ⟨"MOVN", 0x0000000B, 0xFC0007FF, false⟩,
   ⟨"MOVZ", 0x0000000A, 0xFC0007FF, false⟩,
   ⟨"MULT", 0x00000018, 0xFC00FFFF, false⟩,
   ⟨"MULTU", 0x00000019, 0xFC00FFFF, false⟩,
   ⟨"NOP", 0x00000000, 0xFFFFFFFF, true⟩,
   ⟨"OR", 0x00000025, 0xFC0007FF, false⟩,
   ⟨"ORI", 0x34000000, 0xFC000000, false⟩,
   ⟨"SLL", 0x00000000, 0xFFE0003F, false⟩,
   ⟨"SLLV", 0x00000004, 0xFC0007FF, false⟩]

/-- Rows 55 to 70 of the table of R58. -/
def opcodeRows4 : List OpcodeRow :=
  [
   ⟨"SLT", 0x0000002A, 0xFC0007FF, false⟩,
   ⟨"SLTI", 0x28000000, 0xFC000000, false⟩,
   ⟨"SLTIU", 0x2C000000, 0xFC000000, false⟩,
   ⟨"SLTU", 0x0000002B, 0xFC0007FF, false⟩,
   ⟨"SRA", 0x00000003, 0xFFE0003F, false⟩,
   ⟨"SRAV", 0x00000007, 0xFC0007FF, false⟩,
   ⟨"SRL", 0x00000002, 0xFFE0003F, false⟩,
   ⟨"SRLV", 0x00000006, 0xFC0007FF, false⟩,
   ⟨"SW", 0xAC000000, 0xFC000000, false⟩,
   ⟨"SB", 0xA0000000, 0xFC000000, false⟩,
   ⟨"SD", 0xFC000000, 0xFC000000, false⟩,
   ⟨"SH", 0xA4000000, 0xFC000000, false⟩,
   ⟨"SUB", 0x00000022, 0xFC0007FF, false⟩,
   ⟨"SUBU", 0x00000023, 0xFC0007FF, false⟩,
   ⟨"XOR", 0x00000026, 0xFC0007FF, false⟩,
   ⟨"XORI", 0x38000000, 0xFC000000, false⟩]

/-- The table of R58, in its order. -/
def opcodeTable : List OpcodeRow := opcodeRows1 ++ opcodeRows2 ++ opcodeRows3 ++ opcodeRows4

/-- The word spells the row's instruction (R58). -/
def OpcodeRow.spells (r : OpcodeRow) (w : Word32) : Bool := decide (w &&& r.mask = r.bits)

/-- The rows that decoding searches: the table less its idioms and HALT, whose word is the parameter (R59, R61). -/
def coreRows : List OpcodeRow :=
  opcodeTable.filter (fun r => !r.idiom && r.mnemonic != "HALT")

/-! ### The table's words -/

/-- The instruction the decoder reads from bits `w` of a table row of `nbits` bits, under the default parameters. -/
def decodeTableWord (nbits w : Nat) : Option Instr :=
  decode Machine.defaultParams (BitVec.ofNat 32 (w % 2 ^ nbits))

end Sys2Proof
end

