-- ==== Sys2Proof/Machine/State.lean ====
section
/-! DEFINITION. The state of the machine (spec/10_state.md), its exceptions (spec/60_exceptions.md R300), the reasons a step can
stop, and the state after reset (R24 to R27). -/

namespace Sys2Proof.Machine

/-- The kind of access an address error is about (R300, R303). -/
inductive AccessKind where
  | load
  | store
  | fetch
deriving DecidableEq, Repr

/-- The exceptions that trap (R300), with the information each carries. `HaltException` is not among them: it names the
normal end of a run (R305). -/
inductive Trap where
  /-- Raised by ADD, ADDI, DADD, DADDI, SUB and DSUB (R301). -/
  | integerOverflow
  /-- Raised by loads, stores and every fetch (R303). -/
  | addressError (kind : AccessKind) (addr : Word)
  /-- Raised by a fetched word that spells no instruction (R302). -/
  | reservedInstruction (w : Word32)
deriving DecidableEq, Repr

/-- The run status (R20): only `running` has a next step. -/
inductive RunStatus where
  | running
  /-- The run ended at a HALT (R220). -/
  | halted
  /-- The run ended in a trap (R304). -/
  | fault (e : Trap)
deriving DecidableEq, Repr

/-- Data memory (R19): the bytes that differ from what an unlisted address holds, by strictly rising address. -/
abbrev Memory := List Host.Cell

/-- The state of the machine: the summary table of spec/10_state.md, and the code space and the open parameters, which no
instruction writes (notes/assumptions/1.md, 2.md). -/
structure State where
  /-- The open parameters (R4). -/
  params : Params
  /-- The code space: the words of the program, word `i` at `CODE_BASE + 4 * i` (R19). -/
  code : List Word32
  /-- The general registers `x[0]` to `x[31]` (R10); read and written through `reg` and `setReg` only (R11). -/
  regs : Vector Word 32
  /-- `HI` (R14). -/
  hi : Word
  /-- `LO` (R14). -/
  lo : Word
  /-- The program counter (R15). -/
  pc : Word
  /-- Data memory (R19). -/
  mem : Memory
  /-- The run status (R20). -/
  status : RunStatus
  /-- The MODEL's own: how many free values have been drawn (notes/assumptions/5.md). -/
  draws : Nat
deriving DecidableEq, Repr

/-- The reasons a step stops with no next state. No instruction and no fetch raises one: an exception of the spec is a next
state whose run status is `fault` (R304, notes/assumptions/7.md). -/
inductive Fault where
  /-- Raised by `step` when the run has ended at a HALT, which has no next step (R20, R220). Safe. -/
  | runHalted
  /-- Raised by `step` when the run has ended in the trap `e`, which is terminal (R20, R304). Safe. -/
  | runFaulted (e : Trap)
deriving DecidableEq, Repr

/-- The reasons an instruction has no meaning here. -/
inductive Refusal where
  /-- Raised by an arm of `exec` whose instruction has no meaning yet; no arm does. Safe. -/
  | notModelled (mnemonic : String)
deriving DecidableEq, Repr

/-- The outcome of an instruction or a step. -/
abbrev Result := Host.Outcome State Fault Refusal

/-- The machine right after reset with nothing supplied by the host (R400): the pc at `CODE_BASE` (R25), the run status
`running` (R27), `x[0]` zero (R24), data memory with nothing listed (R26), and no program loaded (notes/assumptions/6.md).
It is the reset of `RESET_REGS = zero`, so `x[1]` to `x[31]`, `HI`, `LO` and every byte are zero (R24, R26; that the one reset
state takes this value of the open parameter is a DESIGN CHOICE, unsafe: notes/assumptions/3.md; `launch` takes both values);
`draws` is 0 (DESIGN CHOICE: notes/assumptions/5.md). -/
def State.reset : State where
  params := { defaultParams with resetRegs := .zero }
  code := []
  regs := Vector.replicate 32 0
  hi := 0
  lo := 0
  pc := defaultParams.codeBase
  mem := []
  status := .running
  draws := 0

end Sys2Proof.Machine
end

