-- ==== Sys2Proof/Machine/Ops.lean ====
section
/-! DEFINITION. The named operations over registers, the pc, data memory, the free values and the run status, and taking a trap:
everything the meanings share. -/

namespace Sys2Proof.Machine

/-! ### Registers (R10, R11, R14, R15) -/

/-- `x[r]`: register 0 reads as 0 (R11). -/
def State.reg (s : State) (r : Reg) : Word := if r = 0 then 0 else s.regs[r]

/-- `x[r] <- v`: a write to register 0 is discarded (R11). -/
def State.setReg (s : State) (r : Reg) (v : Word) : State :=
  { s with regs := if r = 0 then s.regs else s.regs.set r v }

/-- `pc <- target`. -/
def State.setPc (s : State) (target : Word) : State := { s with pc := target }

/-- `HI <- v`. -/
def State.setHi (s : State) (v : Word) : State := { s with hi := v }

/-- `LO <- v`. -/
def State.setLo (s : State) (v : Word) : State := { s with lo := v }

/-- The run status becomes `r` (R20). -/
def State.setStatus (s : State) (r : RunStatus) : State := { s with status := r }

/-- Data memory becomes `m`. -/
def State.setMem (s : State) (m : Memory) : State := { s with mem := m }

/-- The default sequencing `pc <- pc + 4`, modulo `2^64` (R15, D27). -/
def State.advance (s : State) : State := s.setPc (s.pc + 4)

/-! ### Free values (R173) -/

/-- `n` free values have been drawn. -/
def State.drawn (s : State) (n : Nat) : State := { s with draws := s.draws + n }

/-! ### Data memory (R19, R30 to R34) -/

/-- What an address that memory does not list reads as. A byte the host does not supply is listed by `launch` with a free value
where `RESET_REGS = unspecified` (R26); it stays unlisted in `State.reset` and where `RESET_REGS = zero` (DESIGN CHOICE, unsafe
for a claim about the run from `State.reset`: notes/assumptions/4.md). -/
def Memory.unlisted : Byte := 0

/-- The byte at address `a`. -/
def Memory.read : Memory → Nat → Byte
  | [], _ => Memory.unlisted
  | (k, b) :: m, a => if a = k then b else Memory.read m a

/-- The byte at address `a` becomes `b`; the canonical form is kept, so a byte equal to what an unlisted address reads as is
not listed. -/
def Memory.write : Memory → Nat → Byte → Memory
  | [], a, b => if b = Memory.unlisted then [] else [(a, b)]
  | (k, c) :: m, a, b =>
    if a < k then (if b = Memory.unlisted then (k, c) :: m else (a, b) :: (k, c) :: m)
    else if a = k then (if b = Memory.unlisted then m else (a, b) :: m)
    else (k, c) :: Memory.write m a b

/-- The canonical form: addresses strictly rising, and no entry equal to what an unlisted address reads as. -/
abbrev Memory.wf (m : Memory) : Prop :=
  m.Pairwise (fun c d => c.1 < d.1) ∧ ∀ c ∈ m, c.2 ≠ Memory.unlisted

/-- The lowest bit of the value of an `n`-byte access that its byte number `k` holds (R30): byte `k` is bits `8k+7 : 8k` when
little endian and bits `8(n-1-k)+7 : 8(n-1-k)` when big endian. -/
def laneBit (e : Endian) (n k : Nat) : Nat :=
  match e with
  | .little => 8 * k
  | .big => 8 * (n - 1 - k)

/-- The value of the `n` bytes at `a` (R30). -/
def Memory.loadValue (e : Endian) (m : Memory) (a n : Nat) : BitVec (8 * n) :=
  (List.range n).foldl (fun v k => v ||| ((m.read (a + k)).setWidth (8 * n) <<< laneBit e n k)) 0

/-- The `n` bytes at `a` become the value `v` (R30). -/
def Memory.storeValue (e : Endian) (m : Memory) (a n : Nat) (v : BitVec (8 * n)) : Memory :=
  (List.range n).foldl (fun m k => m.write (a + k) (v.extractLsb' (laneBit e n k) 8)) m

/-- An access of `n` bytes at `addr` is aligned (R31) and lies wholly inside data memory, `addr` read as unsigned (R32). -/
def accessOk (p : Params) (addr : Word) (n : Nat) : Bool :=
  decide (addr.toNat % n = 0 ∧ addr.toNat + n ≤ p.dataMemBytes)

/-- `MemRead(addr, n)`, or none where it raises an address error (R7, R31, R32). -/
def State.memRead (s : State) (addr : Word) (n : Nat) : Option (BitVec (8 * n)) :=
  if accessOk s.params addr n then some (s.mem.loadValue s.params.endian addr.toNat n) else none

/-- `MemWrite(addr, n, v)`, or none where it raises an address error (R7, R31, R32). -/
def State.memWrite (s : State) (addr : Word) (n : Nat) (v : BitVec (8 * n)) : Option State :=
  if accessOk s.params addr n then some (s.setMem (s.mem.storeValue s.params.endian addr.toNat n v)) else none

/-! ### Instruction fetch (R16, R43) -/

/-- The code word at the pc, or none where the pc is not a multiple of 4 or is outside the program (R16, R405). -/
def State.fetch (s : State) : Option Word32 :=
  if s.pc.toNat % 4 = 0 ∧ s.params.codeBase.toNat ≤ s.pc.toNat then
    s.code[(s.pc.toNat - s.params.codeBase.toNat) / 4]?
  else none

/-! ### How an instruction ends (R304, R405) -/

/-- Taking a trap (R304): the run status becomes `fault e` and nothing else changes; the pc keeps the address of the faulting
instruction. There is no handler and no return (R307). -/
def raise (e : Trap) (s : State) : Result := .next (s.setStatus (.fault e))

/-- The normal end of a run (R220, R305): the run status becomes `halted`; the pc keeps the address of the HALT. -/
def endRun (s : State) : Result := .next (s.setStatus .halted)

/-- The instruction's results are in `s`; the pc takes the default next address (R15). -/
def complete (s : State) : Result := .next s.advance

/-- The instruction's one result `v` goes to register `r`. -/
def writeBack (r : Reg) (v : Word) (s : State) : Result := complete (s.setReg r v)

/-- The result of an instruction that traps on overflow: written to `r`, or `IntegerOverflow` with nothing written (R113). -/
def writeOrTrap (r : Reg) (v : Option Word) (s : State) : Result :=
  match v with
  | some v => writeBack r v s
  | none => raise .integerOverflow s

/-- The results of a multiply or divide go to HI and LO (R14). -/
def writeHiLo (hi lo : Word) (s : State) : Result := complete ((s.setHi hi).setLo lo)

/-- A product: its low half goes to LO, its high half to HI under `MULT_WRITES_HI`; else HI keeps its value (R171, D17). -/
def writeProduct (hi lo : Word) (s : State) : Result :=
  writeHiLo (if s.params.multWritesHi then hi else s.hi) lo s

/-- LO and HI each take any value (R173, U4): two free values are drawn, and the instruction completes. -/
def writeAnyHiLo (s : State) : Result :=
  writeHiLo (Config.freeValue (s.draws + 1)) (Config.freeValue s.draws) (s.drawn 2)

/-- A branch: to `target` if taken, else to the next instruction (R180, R192). -/
def branch (taken : Bool) (target : Word) (s : State) : Result :=
  .next (s.setPc (if taken then target else s.pc + 4))

/-- A jump to `target` (R192). -/
def jump (target : Word) (s : State) : Result := .next (s.setPc target)

/-- A call: the link value `pc + 4` goes to register `r`, then the pc to `target` (R192). -/
def call (r : Reg) (target : Word) (s : State) : Result :=
  .next ((s.setReg r (s.pc + 4)).setPc target)

end Sys2Proof.Machine
end

