-- ==== Sys2Proof/Machine/Operands.lean ====
section
/-! DEFINITION. The operand forms: word operands and results (R112, R143), immediates (spec/30_encoding.md R54), shift amounts
(R142), branch and jump targets (R180, R181) and the effective address (R200). -/

namespace Sys2Proof.Machine

/-- `sext_32`: a 32-bit result in a 64-bit register (R6, R112; D5: notes/assumptions/8.md). -/
def sext32 (v : Word32) : Word := v.signExtend 64

/-- The low 32 bits of register `r`, the operand of a word operation; bits 63:32 are ignored (R112). -/
def State.word (s : State) (r : Reg) : Word32 := (s.reg r).setWidth 32

/-- `sext_16(imm)`: ADDI ADDIU DADDI DADDIU SLTI SLTIU and the offset of loads and stores (R54). -/
def signedImm (imm : Imm16) : Word := imm.signExtend 64

/-- `zext_16(imm)`: ANDI ORI XORI (R54). -/
def zeroImm (imm : Imm16) : Word := imm.setWidth 64

/-- The value of LUI: `sext_32(imm || 0^16)` (R54, R126). -/
def upperImm (imm : Imm16) : Word := sext32 (imm ++ (0 : BitVec 16))

/-- The amount of a word shift by register: the low-order 5 bits of `x[r]`, unsigned (R142). -/
def State.wordAmount (s : State) (r : Reg) : Nat := ((s.reg r).extractLsb' 0 5).toNat

/-- The amount of a doubleword shift by register: the low-order 6 bits of `x[r]`, unsigned (R142). -/
def State.doubleAmount (s : State) (r : Reg) : Nat := ((s.reg r).extractLsb' 0 6).toNat

/-- `pc + 4 + sext_18(imm || 00)`, modulo `2^64` (R180). -/
def State.branchTarget (s : State) (offset : Imm16) : Word :=
  s.pc + 4 + (offset ++ (0 : BitVec 2)).signExtend 64

/-- `(pc + 4)[63:28] || index || 00` (R181). -/
def State.jumpTarget (s : State) (index : Index26) : Word :=
  (s.pc + 4).extractLsb' 28 36 ++ index ++ (0 : BitVec 2)

/-- The effective address `x[base] + sext_16(offset)`, modulo `2^64` (R200). -/
def State.effAddr (s : State) (base : Reg) (offset : Imm16) : Word :=
  s.reg base + signedImm offset

end Sys2Proof.Machine
end

