-- ==== Sys2Proof/Machine/Flags.lean ====
section
/-! DEFINITION. What other machines keep in flags: this one has none (R17). Signed overflow is a trap (R113) and a comparison
writes 1 or 0 to a register (R150 to R153). -/

namespace Sys2Proof.Machine

/-- The exact integer `t` fits a signed value of `n` bits (R113). -/
def fitsSigned (n : Nat) (t : Int) : Bool := decide (-2 ^ (n - 1) ≤ t ∧ t ≤ 2 ^ (n - 1) - 1)

/-- The 32-bit result of an exact sum or difference, sign-extended, or none on signed overflow (R112, R113). -/
def exactWord (t : Int) : Option Word :=
  if fitsSigned 32 t then some (sext32 (BitVec.ofInt 32 t)) else none

/-- The 64-bit result of an exact sum or difference, or none on signed overflow (R113). -/
def exactDouble (t : Int) : Option Word :=
  if fitsSigned 64 t then some (BitVec.ofInt 64 t) else none

/-- The result of a comparison: the 64-bit value 1 or 0 (R150 to R153). -/
def truth (c : Bool) : Word := if c then 1 else 0

end Sys2Proof.Machine
end

