-- ==== Sys2Proof/Machine/AddSub.lean ====
section
/-! DEFINITION. Addition and subtraction (spec/40_add_sub.md R100 to R113). -/

namespace Sys2Proof.Machine

/-- `ADD rd, rs, rt` (R100). -/
def execAdd (rd rs rt : Reg) (s : State) : Result :=
  writeOrTrap rd (exactWord ((s.word rs).toInt + (s.word rt).toInt)) s

/-- `ADDI rt, rs, immediate` (R101). -/
def execAddi (rt rs : Reg) (imm : Imm16) (s : State) : Result :=
  writeOrTrap rt (exactWord ((s.word rs).toInt + imm.toInt)) s

/-- `ADDU rd, rs, rt` (R102). -/
def execAddu (rd rs rt : Reg) (s : State) : Result :=
  writeBack rd (sext32 (s.word rs + s.word rt)) s

/-- `ADDIU rt, rs, immediate` (R103). -/
def execAddiu (rt rs : Reg) (imm : Imm16) (s : State) : Result :=
  writeBack rt (sext32 (s.word rs + (signedImm imm).setWidth 32)) s

/-- `DADD rd, rs, rt` (R104). -/
def execDadd (rd rs rt : Reg) (s : State) : Result :=
  writeOrTrap rd (exactDouble ((s.reg rs).toInt + (s.reg rt).toInt)) s

/-- `DADDI rt, rs, immediate` (R105). -/
def execDaddi (rt rs : Reg) (imm : Imm16) (s : State) : Result :=
  writeOrTrap rt (exactDouble ((s.reg rs).toInt + imm.toInt)) s

/-- `DADDU rd, rs, rt` (R106). -/
def execDaddu (rd rs rt : Reg) (s : State) : Result :=
  writeBack rd (s.reg rs + s.reg rt) s

/-- `DADDIU rt, rs, immediate` (R107). -/
def execDaddiu (rt rs : Reg) (imm : Imm16) (s : State) : Result :=
  writeBack rt (s.reg rs + signedImm imm) s

/-- `SUB rd, rs, rt` (R108). -/
def execSub (rd rs rt : Reg) (s : State) : Result :=
  writeOrTrap rd (exactWord ((s.word rs).toInt - (s.word rt).toInt)) s

/-- `SUBU rd, rs, rt` (R109). -/
def execSubu (rd rs rt : Reg) (s : State) : Result :=
  writeBack rd (sext32 (s.word rs - s.word rt)) s

/-- `DSUB rd, rs, rt` (R110). -/
def execDsub (rd rs rt : Reg) (s : State) : Result :=
  writeOrTrap rd (exactDouble ((s.reg rs).toInt - (s.reg rt).toInt)) s

/-- `DSUBU rd, rs, rt` (R111). -/
def execDsubu (rd rs rt : Reg) (s : State) : Result :=
  writeBack rd (s.reg rs - s.reg rt) s

end Sys2Proof.Machine
end

