-- ==== Sys2Proof/Machine/BranchJump.lean ====
section
/-! DEFINITION. Branches and jumps (spec/45_branch_jump.md R180 to R193). There is no delay slot (R192; D10:
notes/assumptions/9.md). -/

namespace Sys2Proof.Machine

/-- `B offset` (R182). -/
def execB (offset : Imm16) (s : State) : Result := branch true (s.branchTarget offset) s

/-- `BEQ rs, rt, offset` (R183): all 64 bits are compared. -/
def execBeq (rs rt : Reg) (offset : Imm16) (s : State) : Result :=
  branch (decide (s.reg rs = s.reg rt)) (s.branchTarget offset) s

/-- `BEQZ rs, offset` (R184). -/
def execBeqz (rs : Reg) (offset : Imm16) (s : State) : Result :=
  branch (decide (s.reg rs = 0)) (s.branchTarget offset) s

/-- `BGEZ rs, offset` (R185): signed. -/
def execBgez (rs : Reg) (offset : Imm16) (s : State) : Result :=
  branch (decide (0 ≤ (s.reg rs).toInt)) (s.branchTarget offset) s

/-- `BNE rs, rt, offset` (R186). -/
def execBne (rs rt : Reg) (offset : Imm16) (s : State) : Result :=
  branch (decide (s.reg rs ≠ s.reg rt)) (s.branchTarget offset) s

/-- `BNEZ rs, offset` (R187). -/
def execBnez (rs : Reg) (offset : Imm16) (s : State) : Result :=
  branch (decide (s.reg rs ≠ 0)) (s.branchTarget offset) s

/-- `J target` (R188). -/
def execJ (index : Index26) (s : State) : Result := jump (s.jumpTarget index) s

/-- `JAL target` (R189): the link register is `x[31]`. -/
def execJal (index : Index26) (s : State) : Result := call 31 (s.jumpTarget index) s

/-- `JALR rd, rs` (R190): the target is read before the link is written (D24). -/
def execJalr (rd rs : Reg) (s : State) : Result := call rd (s.reg rs) s

/-- `JR rs` (R191). -/
def execJr (rs : Reg) (s : State) : Result := jump (s.reg rs) s

end Sys2Proof.Machine
end

