-- ==== Sys2Proof/Machine/CompareMove.lean ====
section
/-! DEFINITION. Comparisons and conditional moves (spec/43_compare_move.md R150 to R155), on all 64 bits. -/

namespace Sys2Proof.Machine

/-- `SLT rd, rs, rt` (R150): signed. -/
def execSlt (rd rs rt : Reg) (s : State) : Result :=
  writeBack rd (truth (decide ((s.reg rs).toInt < (s.reg rt).toInt))) s

/-- `SLTI rt, rs, immediate` (R151): signed. -/
def execSlti (rt rs : Reg) (imm : Imm16) (s : State) : Result :=
  writeBack rt (truth (decide ((s.reg rs).toInt < (signedImm imm).toInt))) s

/-- `SLTIU rt, rs, immediate` (R152): the sign-extended immediate is compared as unsigned. -/
def execSltiu (rt rs : Reg) (imm : Imm16) (s : State) : Result :=
  writeBack rt (truth (decide ((s.reg rs).toNat < (signedImm imm).toNat))) s

/-- `SLTU rd, rs, rt` (R153): unsigned. -/
def execSltu (rd rs rt : Reg) (s : State) : Result :=
  writeBack rd (truth (decide ((s.reg rs).toNat < (s.reg rt).toNat))) s

/-- `MOVN rd, rs, rt` (R154): when `x[rt]` is zero nothing is written. -/
def execMovn (rd rs rt : Reg) (s : State) : Result :=
  if s.reg rt ≠ 0 then writeBack rd (s.reg rs) s else complete s

/-- `MOVZ rd, rs, rt` (R155): when `x[rt]` is not zero nothing is written. -/
def execMovz (rd rs rt : Reg) (s : State) : Result :=
  if s.reg rt = 0 then writeBack rd (s.reg rs) s else complete s

end Sys2Proof.Machine
end

