-- ==== Sys2Proof/Machine/HaltNop.lean ====
section
/-! DEFINITION. HALT and NOP (spec/47_halt_nop.md R220 to R222). -/

namespace Sys2Proof.Machine

/-- `HALT` (R220): the normal end of the run. -/
def execHalt (s : State) : Result := endRun s

/-- `NOP` (R221): only the pc changes. -/
def execNop (s : State) : Result := complete s

end Sys2Proof.Machine
end

