-- ==== Sys2Proof/Machine/LoadStore.lean ====
section
/-! DEFINITION. Loads and stores (spec/46_load_store.md R200 to R212). -/

namespace Sys2Proof.Machine

/-- A load of `n` bytes: the value read, extended to 64 bits by `ext`, goes to `rt`; a bad address traps and writes nothing
(R200, R212, R303). -/
def load (n : Nat) (ext : BitVec (8 * n) → Word) (rt base : Reg) (offset : Imm16) (s : State) : Result :=
  match s.memRead (s.effAddr base offset) n with
  | some v => writeBack rt (ext v) s
  | none => raise (.addressError .load (s.effAddr base offset)) s

/-- A store of `n` bytes: the low `8 * n` bits of `x[rt]` go to memory; a bad address traps and writes nothing
(R33, R200, R303). -/
def store (n : Nat) (rt base : Reg) (offset : Imm16) (s : State) : Result :=
  match s.memWrite (s.effAddr base offset) n ((s.reg rt).setWidth (8 * n)) with
  | some s' => complete s'
  | none => raise (.addressError .store (s.effAddr base offset)) s

/-- `LB rt, offset(base)` (R201). -/
def execLb (rt : Reg) (offset : Imm16) (base : Reg) (s : State) : Result :=
  load 1 (fun v => v.signExtend 64) rt base offset s

/-- `LBU rt, offset(base)` (R202). -/
def execLbu (rt : Reg) (offset : Imm16) (base : Reg) (s : State) : Result :=
  load 1 (fun v => v.setWidth 64) rt base offset s

/-- `LD rt, offset(base)` (R203). -/
def execLd (rt : Reg) (offset : Imm16) (base : Reg) (s : State) : Result :=
  load 8 (fun v => v) rt base offset s

/-- `LH rt, offset(base)` (R204). -/
def execLh (rt : Reg) (offset : Imm16) (base : Reg) (s : State) : Result :=
  load 2 (fun v => v.signExtend 64) rt base offset s

/-- `LHU rt, offset(base)` (R205). -/
def execLhu (rt : Reg) (offset : Imm16) (base : Reg) (s : State) : Result :=
  load 2 (fun v => v.setWidth 64) rt base offset s

/-- `LW rt, offset(base)` (R206). -/
def execLw (rt : Reg) (offset : Imm16) (base : Reg) (s : State) : Result :=
  load 4 (fun v => v.signExtend 64) rt base offset s

/-- `LWU rt, offset(base)` (R207). -/
def execLwu (rt : Reg) (offset : Imm16) (base : Reg) (s : State) : Result :=
  load 4 (fun v => v.setWidth 64) rt base offset s

/-- `SW rt, offset(base)` (R208). -/
def execSw (rt : Reg) (offset : Imm16) (base : Reg) (s : State) : Result := store 4 rt base offset s

/-- `SB rt, offset(base)` (R209). -/
def execSb (rt : Reg) (offset : Imm16) (base : Reg) (s : State) : Result := store 1 rt base offset s

/-- `SD rt, offset(base)` (R210). -/
def execSd (rt : Reg) (offset : Imm16) (base : Reg) (s : State) : Result := store 8 rt base offset s

/-- `SH rt, offset(base)` (R211). -/
def execSh (rt : Reg) (offset : Imm16) (base : Reg) (s : State) : Result := store 2 rt base offset s

end Sys2Proof.Machine
end

