-- ==== Sys2Proof/Machine/Logical.lean ====
section
/-! DEFINITION. Bitwise logical operations and LUI (spec/41_logical.md R120 to R126). -/

namespace Sys2Proof.Machine

/-- `AND rd, rs, rt` (R120). -/
def execAnd (rd rs rt : Reg) (s : State) : Result := writeBack rd (s.reg rs &&& s.reg rt) s

/-- `ANDI rt, rs, immediate` (R121). -/
def execAndi (rt rs : Reg) (imm : Imm16) (s : State) : Result := writeBack rt (s.reg rs &&& zeroImm imm) s

/-- `OR rd, rs, rt` (R122). -/
def execOr (rd rs rt : Reg) (s : State) : Result := writeBack rd (s.reg rs ||| s.reg rt) s

/-- `ORI rt, rs, immediate` (R123). -/
def execOri (rt rs : Reg) (imm : Imm16) (s : State) : Result := writeBack rt (s.reg rs ||| zeroImm imm) s

/-- `XOR rd, rs, rt` (R124). -/
def execXor (rd rs rt : Reg) (s : State) : Result := writeBack rd (s.reg rs ^^^ s.reg rt) s

/-- `XORI rt, rs, immediate` (R125). -/
def execXori (rt rs : Reg) (imm : Imm16) (s : State) : Result := writeBack rt (s.reg rs ^^^ zeroImm imm) s

/-- `LUI rt, immediate` (R126). -/
def execLui (rt : Reg) (imm : Imm16) (s : State) : Result := writeBack rt (upperImm imm) s

end Sys2Proof.Machine
end

