-- ==== Sys2Proof/Machine/MulDiv.lean ====
section
/-! DEFINITION. Multiply, divide and the HI and LO registers (spec/44_muldiv.md R160 to R173). -/

namespace Sys2Proof.Machine

/-- The halves of a 64-bit product, each sign-extended to 64 bits: LO gets bits 31:0 and HI bits 63:32 (R160, R161, R171). -/
def wordProduct (p : Int) (s : State) : Result :=
  writeProduct (sext32 ((BitVec.ofInt 64 p).extractLsb' 32 32)) (sext32 ((BitVec.ofInt 64 p).extractLsb' 0 32)) s

/-- The halves of a 128-bit product: LO gets bits 63:0 and HI bits 127:64 (R162, R163, R171). -/
def doubleProduct (p : Int) (s : State) : Result :=
  writeProduct ((BitVec.ofInt 128 p).extractLsb' 64 64) ((BitVec.ofInt 128 p).extractLsb' 0 64) s

/-- The quotient of `a` by `b`, rounded toward zero (R172; D19: notes/assumptions/12.md). -/
def quotient (a b : Int) : Int := a.tdiv b

/-- The remainder `a - q * b` (R172). -/
def remainder (a b : Int) : Int := a - quotient a b * b

/-- A 32-bit divide: quotient to LO and remainder to HI, each taken modulo `2^32` and sign-extended; a zero divisor leaves both
any value (R164, R165, R173). -/
def wordDivide (a b : Int) (s : State) : Result :=
  if b = 0 then writeAnyHiLo s
  else writeHiLo (sext32 (BitVec.ofInt 32 (remainder a b))) (sext32 (BitVec.ofInt 32 (quotient a b))) s

/-- A 64-bit divide: quotient to LO and remainder to HI, each taken modulo `2^64`; a zero divisor leaves both any value
(R166, R167, R173). -/
def doubleDivide (a b : Int) (s : State) : Result :=
  if b = 0 then writeAnyHiLo s
  else writeHiLo (BitVec.ofInt 64 (remainder a b)) (BitVec.ofInt 64 (quotient a b)) s

/-- `MULT rs, rt` (R160): signed. -/
def execMult (rs rt : Reg) (s : State) : Result :=
  wordProduct ((s.word rs).toInt * (s.word rt).toInt) s

/-- `MULTU rs, rt` (R161): unsigned. -/
def execMultu (rs rt : Reg) (s : State) : Result :=
  wordProduct (((s.word rs).toNat : Int) * ((s.word rt).toNat : Int)) s

/-- `DMULT rs, rt` (R162): signed. -/
def execDmult (rs rt : Reg) (s : State) : Result :=
  doubleProduct ((s.reg rs).toInt * (s.reg rt).toInt) s

/-- `DMULTU rs, rt` (R163): unsigned. -/
def execDmultu (rs rt : Reg) (s : State) : Result :=
  doubleProduct (((s.reg rs).toNat : Int) * ((s.reg rt).toNat : Int)) s

/-- `DIV rs, rt` (R164): signed. -/
def execDiv (rs rt : Reg) (s : State) : Result :=
  wordDivide (s.word rs).toInt (s.word rt).toInt s

/-- `DIVU rs, rt` (R165): unsigned. -/
def execDivu (rs rt : Reg) (s : State) : Result :=
  wordDivide ((s.word rs).toNat : Int) ((s.word rt).toNat : Int) s

/-- `DDIV rs, rt` (R166): signed. -/
def execDdiv (rs rt : Reg) (s : State) : Result :=
  doubleDivide (s.reg rs).toInt (s.reg rt).toInt s

/-- `DDIVU rs, rt` (R167): unsigned. -/
def execDdivu (rs rt : Reg) (s : State) : Result :=
  doubleDivide ((s.reg rs).toNat : Int) ((s.reg rt).toNat : Int) s

/-- `MFHI rd` (R168). -/
def execMfhi (rd : Reg) (s : State) : Result := writeBack rd s.hi s

/-- `MFLO rd` (R169). -/
def execMflo (rd : Reg) (s : State) : Result := writeBack rd s.lo s

end Sys2Proof.Machine
end

