-- ==== Sys2Proof/Machine/Shift.lean ====
section
/-! DEFINITION. Shifts (spec/42_shift.md R130 to R143). Word shifts act on bits 31:0 of the source and sign-extend the 32-bit
result, the logical ones too (R143). -/

namespace Sys2Proof.Machine

/-- `SLL rd, rt, sa` (R130). -/
def execSll (rd rt : Reg) (sa : ShiftAmount) (s : State) : Result :=
  writeBack rd (sext32 (s.word rt <<< sa.val)) s

/-- `SLLV rd, rt, rs` (R131). -/
def execSllv (rd rt rs : Reg) (s : State) : Result :=
  writeBack rd (sext32 (s.word rt <<< s.wordAmount rs)) s

/-- `SRL rd, rt, sa` (R132). -/
def execSrl (rd rt : Reg) (sa : ShiftAmount) (s : State) : Result :=
  writeBack rd (sext32 (s.word rt >>> sa.val)) s

/-- `SRLV rd, rt, rs` (R133). -/
def execSrlv (rd rt rs : Reg) (s : State) : Result :=
  writeBack rd (sext32 (s.word rt >>> s.wordAmount rs)) s

/-- `SRA rd, rt, sa` (R134): the sign bit is bit 31. -/
def execSra (rd rt : Reg) (sa : ShiftAmount) (s : State) : Result :=
  writeBack rd (sext32 ((s.word rt).sshiftRight sa.val)) s

/-- `SRAV rd, rt, rs` (R135). -/
def execSrav (rd rt rs : Reg) (s : State) : Result :=
  writeBack rd (sext32 ((s.word rt).sshiftRight (s.wordAmount rs))) s

/-- `DSLL rd, rt, sa` (R136). -/
def execDsll (rd rt : Reg) (sa : ShiftAmount) (s : State) : Result :=
  writeBack rd (s.reg rt <<< sa.val) s

/-- `DSLLV rd, rt, rs` (R137). -/
def execDsllv (rd rt rs : Reg) (s : State) : Result :=
  writeBack rd (s.reg rt <<< s.doubleAmount rs) s

/-- `DSRL rd, rt, sa` (R138). -/
def execDsrl (rd rt : Reg) (sa : ShiftAmount) (s : State) : Result :=
  writeBack rd (s.reg rt >>> sa.val) s

/-- `DSRLV rd, rt, rs` (R139). -/
def execDsrlv (rd rt rs : Reg) (s : State) : Result :=
  writeBack rd (s.reg rt >>> s.doubleAmount rs) s

/-- `DSRA rd, rt, sa` (R140): the sign bit is bit 63. -/
def execDsra (rd rt : Reg) (sa : ShiftAmount) (s : State) : Result :=
  writeBack rd ((s.reg rt).sshiftRight sa.val) s

/-- `DSRAV rd, rt, rs` (R141). -/
def execDsrav (rd rt rs : Reg) (s : State) : Result :=
  writeBack rd ((s.reg rt).sshiftRight (s.doubleAmount rs)) s

end Sys2Proof.Machine
end

