-- ==== Sys2Proof/Machine/Cycle.lean ====
section
/-! DEFINITION. What a running machine does in one step (spec/70_reset_and_hazards.md R405). -/

namespace Sys2Proof.Machine

/-- Steps 1 to 4 of R405, in the order of priority of R306: an impossible fetch, then a reserved word, then the instruction. -/
def cycle (s : State) : Result :=
  match s.fetch with
  | none => raise (.addressError .fetch s.pc) s
  | some w =>
    match decode s.params w with
    | none => raise (.reservedInstruction w) s
    | some i => exec i s

end Sys2Proof.Machine
end

