-- ==== Sys2Proof/Machine/Launch.lean ====
section
/-! DEFINITION. The start of a run (spec/70_reset_and_hazards.md R400, R401): what the host may supply, and the state it
builds. -/

namespace Sys2Proof.Machine

/-- What the host supplies before a run (R401), and the values of the open parameters. -/
structure LaunchState where
  params : Params
  /-- The words of the program, placed at `CODE_BASE`. -/
  program : List Word32
  /-- The image of data memory: bytes by address. -/
  image : List Host.Cell
  /-- Values for general registers, a later entry overriding an earlier one. -/
  regs : List (Reg × Word)
  hi : Option Word
  lo : Option Word
  /-- The MODEL's own: the number of the first free value of the start (notes/assumptions/25.md). -/
  firstDraw : Nat
deriving DecidableEq, Repr

/-- The host keeps the rules of R401 and R4: the parameters are well formed, every byte of the image is in data memory, and no
value but 0 is supplied for `x[0]`. A HALT_WORD that matches another row is refused with the parameters, chosen on purpose or not
(DESIGN CHOICE, safe: notes/assumptions/18.md). -/
def LaunchState.allowed (l : LaunchState) : Bool :=
  l.params.wellFormed && l.image.all (fun c => decide (c.1 < l.params.dataMemBytes))
    && l.regs.all (fun e => decide (e.1 = 0 → e.2 = 0))

/-- The bytes of `image` written over memory, in order. -/
def Memory.writeAll (m : Memory) (image : List Host.Cell) : Memory :=
  image.foldl (fun m c => m.write c.1 c.2) m

/-- The values of `vs` written to the registers, in order. -/
def State.setRegs (s : State) (vs : List (Reg × Word)) : State :=
  vs.foldl (fun s e => s.setReg e.1 e.2) s

/-- What the place of number `k` holds at the start where the host supplies nothing: any value, so a free value of its own, or 0,
as RESET_REGS says (R24, R26, R400; notes/assumptions/25.md). -/
def LaunchState.unsupplied (l : LaunchState) (k : Nat) : Word :=
  match l.params.resetRegs with
  | .unspecified => Config.freeValue (l.firstDraw + k)
  | .zero => 0

/-- The general registers before the host's values (R400 steps 3 and 4): register `r` is the place of number `r`. -/
def LaunchState.startRegs (l : LaunchState) : Vector Word 32 :=
  Vector.ofFn (fun r : Reg => if r = 0 then 0 else l.unsupplied r.val)

/-- Data memory before the host's image (R400 step 2): the byte at address `a` is the low byte of the place of number `34 + a`. -/
def LaunchState.startMem (l : LaunchState) : Memory :=
  match l.params.resetRegs with
  | .unspecified =>
    Memory.writeAll [] ((List.range l.params.dataMemBytes).map (fun a => (a, (l.unsupplied (34 + a)).extractLsb' 0 8)))
  | .zero => []

/-- The number of the first free value that no place of the start has taken. -/
def LaunchState.nextDraw (l : LaunchState) : Nat :=
  match l.params.resetRegs with
  | .unspecified => l.firstDraw + (34 + l.params.dataMemBytes)
  | .zero => l.firstDraw

/-- The reset procedure of R400: the program, the image, `x[0]` zero, the pc at `CODE_BASE`, the host's register values, and the
run status `running`. What the host does not supply is as RESET_REGS says; HI is the place of number 32 and LO that of number 33.
A launch the host may not make is refused (notes/assumptions/16.md). -/
def launch (l : LaunchState) : Option State :=
  if l.allowed then
    some (({
      params := l.params
      code := l.program
      regs := l.startRegs
      hi := l.hi.getD (l.unsupplied 32)
      lo := l.lo.getD (l.unsupplied 33)
      pc := l.params.codeBase
      mem := Memory.writeAll l.startMem l.image
      status := .running
      draws := l.nextDraw } : State).setRegs l.regs)
  else none

/-- `s` with the word `w` where the next step fetches: at the pc if the pc is in the program; else as a program of that one word,
which starts at `CODE_BASE` (R25; notes/assumptions/6.md). The run status is `running`, without which there is no step. -/
def State.placeAtPc (s : State) (w : Word32) : State :=
  match s.fetch with
  | some _ =>
    { s with code := s.code.set ((s.pc.toNat - s.params.codeBase.toNat) / 4) w, status := .running }
  | none => { s with code := [w], pc := s.params.codeBase, status := .running }

end Sys2Proof.Machine
end

