-- ==== Sys2Proof/Machine/Step.lean ====
section
/-! DEFINITION. One step of the machine (spec/70_reset_and_hazards.md R405), and placing an instruction where the next step
fetches it. -/

namespace Sys2Proof.Machine

/-- One step: only a running machine has one (R20, R405). -/
def step (s : State) : Host.Outcome State Fault Refusal :=
  match s.status with
  | .running => cycle s
  | .halted => .fault .runHalted
  | .fault e => .fault (.runFaulted e)

/-- `s` with the `nbits` low bits of `w` as the instruction word that the next step fetches. -/
def State.withFetchWord (s : State) (nbits w : Nat) : State :=
  s.placeAtPc (BitVec.ofNat 32 (w % 2 ^ nbits))

end Sys2Proof.Machine
end

