-- ==== Sys2Proof/Machine/Asm.lean ====
section
/-! DEFINITION. The assembler (spec/30_encoding.md R64, R66 to R69; spec/45_branch_jump.md R190): from a line of text to an
assembly line, and from an assembly line at a code address to an instruction. The machine does not use it. -/

namespace Sys2Proof

/-! ### Operands (R68, R69) -/

/-- A register operand. -/
def AsmOperand.toReg : AsmOperand → Option Reg
  | .reg n => if h : n < 32 then some ⟨n, h⟩ else none
  | _ => none

/-- The 16-bit field of a signed value (R69). -/
def signedField (v : Int) : Option Imm16 := if fitsSignedField v then some (BitVec.ofInt 16 v) else none

/-- A signed immediate (R69). -/
def AsmOperand.signed : AsmOperand → Option Imm16
  | .num v => signedField v
  | _ => none

/-- An unsigned immediate (R69). -/
def AsmOperand.unsigned : AsmOperand → Option Imm16
  | .num v => if 0 ≤ v ∧ v ≤ 65535 then some (BitVec.ofInt 16 v) else none
  | _ => none

/-- A shift amount (R69). -/
def AsmOperand.shift : AsmOperand → Option ShiftAmount
  | .num v => if 0 ≤ v ∧ v ≤ 31 then some (Fin.ofNat 32 v.toNat) else none
  | _ => none

/-- `offset(base)` (R67, R69). -/
def AsmOperand.memory : AsmOperand → Option (Imm16 × Reg)
  | .mem v n =>
    match signedField v, AsmOperand.toReg (.reg n) with
    | some f, some b => some (f, b)
    | _, _ => none
  | _ => none

/-- A branch operand of the branch at `pc`: an explicit field value, or the label `L`'s `((L - (pc + 4)) / 4)[15:0]` (R68). -/
def AsmOperand.branchField (pc : Word) : AsmOperand → Option Imm16
  | .num v => signedField v
  | .label l =>
    let d := branchDistance pc l
    if d % 4 = 0 ∧ -32768 ≤ d / 4 ∧ d / 4 ≤ 32767 then some (BitVec.ofInt 16 (d / 4)) else none
  | _ => none

/-- A jump operand of the jump at `pc`: an explicit field value, or the label `L`'s bits `L[27:2]` (R68). -/
def AsmOperand.jumpField (pc : Word) : AsmOperand → Option Index26
  | .num v => if 0 ≤ v ∧ v < 67108864 then some (BitVec.ofInt 26 v) else none
  | .label l =>
    if l.toNat % 4 = 0 ∧ l.extractLsb' 28 36 = (pc + 4).extractLsb' 28 36 then some (l.extractLsb' 2 26) else none
  | _ => none

/-! ### Operand lists (R67) -/

/-- `OP x`. -/
def only {α : Type} (f : AsmOperand → Option α) (k : α → Instr) : List AsmOperand → Option Instr
  | [a] => (f a).map k
  | _ => none

/-- `OP r, x`. -/
def oneReg {α : Type} (f : AsmOperand → Option α) (k : Reg → α → Instr) : List AsmOperand → Option Instr
  | [a, b] =>
    match AsmOperand.toReg a, f b with
    | some x, some y => some (k x y)
    | _, _ => none
  | _ => none

/-- `OP r, r, x`. -/
def twoRegs {α : Type} (f : AsmOperand → Option α) (k : Reg → Reg → α → Instr) : List AsmOperand → Option Instr
  | [a, b, c] =>
    match AsmOperand.toReg a, AsmOperand.toReg b, f c with
    | some x, some y, some z => some (k x y z)
    | _, _, _ => none
  | _ => none

/-- `OP r, r, r`. -/
def threeRegs (k : Reg → Reg → Reg → Instr) : List AsmOperand → Option Instr := twoRegs AsmOperand.toReg k

/-- `OP rt, offset(base)`. -/
def regMem (k : Reg → Imm16 → Reg → Instr) : List AsmOperand → Option Instr :=
  oneReg AsmOperand.memory (fun rt m => k rt m.1 m.2)

/-- `JALR rs`, whose link register is `x[31]`, and `JALR rd, rs` (R190, D24). -/
def linked (k : Reg → Reg → Instr) : List AsmOperand → Option Instr
  | [a] => (AsmOperand.toReg a).map (k 31)
  | ops => oneReg AsmOperand.toReg k ops

/-- The instruction of an assembly line at code address `pc`, or none where the assembler refuses it (R67 to R69). -/
def assemble (pc : Word) (l : AsmLine) : Option Instr :=
  match l.mnemonic with
  | .add => threeRegs .add l.operands
  | .addi => twoRegs AsmOperand.signed .addi l.operands
  | .addu => threeRegs .addu l.operands
  | .addiu => twoRegs AsmOperand.signed .addiu l.operands
  | .dadd => threeRegs .dadd l.operands
  | .daddi => twoRegs AsmOperand.signed .daddi l.operands
  | .daddu => threeRegs .daddu l.operands
  | .daddiu => twoRegs AsmOperand.signed .daddiu l.operands
  | .sub => threeRegs .sub l.operands
  | .subu => threeRegs .subu l.operands
  | .dsub => threeRegs .dsub l.operands
  | .dsubu => threeRegs .dsubu l.operands
  | .and => threeRegs .and l.operands
  | .andi => twoRegs AsmOperand.unsigned .andi l.operands
  | .or => threeRegs .or l.operands
  | .ori => twoRegs AsmOperand.unsigned .ori l.operands
  | .xor => threeRegs .xor l.operands
  | .xori => twoRegs AsmOperand.unsigned .xori l.operands
  | .lui => oneReg AsmOperand.unsigned .lui l.operands
  | .sll => twoRegs AsmOperand.shift .sll l.operands
  | .sllv => threeRegs .sllv l.operands
  | .srl => twoRegs AsmOperand.shift .srl l.operands
  | .srlv => threeRegs .srlv l.operands
  | .sra => twoRegs AsmOperand.shift .sra l.operands
  | .srav => threeRegs .srav l.operands
  | .dsll => twoRegs AsmOperand.shift .dsll l.operands
  | .dsllv => threeRegs .dsllv l.operands
  | .dsrl => twoRegs AsmOperand.shift .dsrl l.operands
  | .dsrlv => threeRegs .dsrlv l.operands
  | .dsra => twoRegs AsmOperand.shift .dsra l.operands
  | .dsrav => threeRegs .dsrav l.operands
  | .slt => threeRegs .slt l.operands
  | .slti => twoRegs AsmOperand.signed .slti l.operands
  | .sltiu => twoRegs AsmOperand.signed .sltiu l.operands
  | .sltu => threeRegs .sltu l.operands
  | .movn => threeRegs .movn l.operands
  | .movz => threeRegs .movz l.operands
  | .mult => oneReg AsmOperand.toReg .mult l.operands
  | .multu => oneReg AsmOperand.toReg .multu l.operands
  | .dmult => oneReg AsmOperand.toReg .dmult l.operands
  | .dmultu => oneReg AsmOperand.toReg .dmultu l.operands
  | .div => oneReg AsmOperand.toReg .div l.operands
  | .divu => oneReg AsmOperand.toReg .divu l.operands
  | .ddiv => oneReg AsmOperand.toReg .ddiv l.operands
  | .ddivu => oneReg AsmOperand.toReg .ddivu l.operands
  | .mfhi => only AsmOperand.toReg .mfhi l.operands
  | .mflo => only AsmOperand.toReg .mflo l.operands
  | .b => only (AsmOperand.branchField pc) .b l.operands
  | .beq => twoRegs (AsmOperand.branchField pc) .beq l.operands
  | .beqz => oneReg (AsmOperand.branchField pc) .beqz l.operands
  | .bgez => oneReg (AsmOperand.branchField pc) .bgez l.operands
  | .bne => twoRegs (AsmOperand.branchField pc) .bne l.operands
  | .bnez => oneReg (AsmOperand.branchField pc) .bnez l.operands
  | .j => only (AsmOperand.jumpField pc) .j l.operands
  | .jal => only (AsmOperand.jumpField pc) .jal l.operands
  | .jalr => linked .jalr l.operands
  | .jr => only AsmOperand.toReg .jr l.operands
  | .lb => regMem .lb l.operands
  | .lbu => regMem .lbu l.operands
  | .ld => regMem .ld l.operands
  | .lh => regMem .lh l.operands
  | .lhu => regMem .lhu l.operands
  | .lw => regMem .lw l.operands
  | .lwu => regMem .lwu l.operands
  | .sw => regMem .sw l.operands
  | .sb => regMem .sb l.operands
  | .sd => regMem .sd l.operands
  | .sh => regMem .sh l.operands
  | .halt => if l.operands = [] then some .halt else none
  | .nop => if l.operands = [] then some .nop else none

/-- The assembly line that writes an instruction, its numbers as field values in the range of R69. -/
def Instr.line (i : Instr) : AsmLine :=
  let r : Reg → AsmOperand := fun n => .reg n.val
  match i with
  | .add rd rs rt => ⟨.add, [r rd, r rs, r rt]⟩
  | .addi rt rs imm => ⟨.addi, [r rt, r rs, .num imm.toInt]⟩
  | .addu rd rs rt => ⟨.addu, [r rd, r rs, r rt]⟩
  | .addiu rt rs imm => ⟨.addiu, [r rt, r rs, .num imm.toInt]⟩
  | .dadd rd rs rt => ⟨.dadd, [r rd, r rs, r rt]⟩
  | .daddi rt rs imm => ⟨.daddi, [r rt, r rs, .num imm.toInt]⟩
  | .daddu rd rs rt => ⟨.daddu, [r rd, r rs, r rt]⟩
  | .daddiu rt rs imm => ⟨.daddiu, [r rt, r rs, .num imm.toInt]⟩
  | .sub rd rs rt => ⟨.sub, [r rd, r rs, r rt]⟩
  | .subu rd rs rt => ⟨.subu, [r rd, r rs, r rt]⟩
  | .dsub rd rs rt => ⟨.dsub, [r rd, r rs, r rt]⟩
  | .dsubu rd rs rt => ⟨.dsubu, [r rd, r rs, r rt]⟩
  | .and rd rs rt => ⟨.and, [r rd, r rs, r rt]⟩
  | .andi rt rs imm => ⟨.andi, [r rt, r rs, .num imm.toNat]⟩
  | .or rd rs rt => ⟨.or, [r rd, r rs, r rt]⟩
  | .ori rt rs imm => ⟨.ori, [r rt, r rs, .num imm.toNat]⟩
  | .xor rd rs rt => ⟨.xor, [r rd, r rs, r rt]⟩
  | .xori rt rs imm => ⟨.xori, [r rt, r rs, .num imm.toNat]⟩
  | .lui rt imm => ⟨.lui, [r rt, .num imm.toNat]⟩
  | .sll rd rt sa => ⟨.sll, [r rd, r rt, .num sa.val]⟩
  | .sllv rd rt rs => ⟨.sllv, [r rd, r rt, r rs]⟩
  | .srl rd rt sa => ⟨.srl, [r rd, r rt, .num sa.val]⟩
  | .srlv rd rt rs => ⟨.srlv, [r rd, r rt, r rs]⟩
  | .sra rd rt sa => ⟨.sra, [r rd, r rt, .num sa.val]⟩
  | .srav rd rt rs => ⟨.srav, [r rd, r rt, r rs]⟩
  | .dsll rd rt sa => ⟨.dsll, [r rd, r rt, .num sa.val]⟩
  | .dsllv rd rt rs => ⟨.dsllv, [r rd, r rt, r rs]⟩
  | .dsrl rd rt sa => ⟨.dsrl, [r rd, r rt, .num sa.val]⟩
  | .dsrlv rd rt rs => ⟨.dsrlv, [r rd, r rt, r rs]⟩
  | .dsra rd rt sa => ⟨.dsra, [r rd, r rt, .num sa.val]⟩
  | .dsrav rd rt rs => ⟨.dsrav, [r rd, r rt, r rs]⟩
  | .slt rd rs rt => ⟨.slt, [r rd, r rs, r rt]⟩
  | .slti rt rs imm => ⟨.slti, [r rt, r rs, .num imm.toInt]⟩
  | .sltiu rt rs imm => ⟨.sltiu, [r rt, r rs, .num imm.toInt]⟩
  | .sltu rd rs rt => ⟨.sltu, [r rd, r rs, r rt]⟩
  | .movn rd rs rt => ⟨.movn, [r rd, r rs, r rt]⟩
  | .movz rd rs rt => ⟨.movz, [r rd, r rs, r rt]⟩
  | .mult rs rt => ⟨.mult, [r rs, r rt]⟩
  | .multu rs rt => ⟨.multu, [r rs, r rt]⟩
  | .dmult rs rt => ⟨.dmult, [r rs, r rt]⟩
  | .dmultu rs rt => ⟨.dmultu, [r rs, r rt]⟩
  | .div rs rt => ⟨.div, [r rs, r rt]⟩
  | .divu rs rt => ⟨.divu, [r rs, r rt]⟩
  | .ddiv rs rt => ⟨.ddiv, [r rs, r rt]⟩
  | .ddivu rs rt => ⟨.ddivu, [r rs, r rt]⟩
  | .mfhi rd => ⟨.mfhi, [r rd]⟩
  | .mflo rd => ⟨.mflo, [r rd]⟩
  | .b offset => ⟨.b, [.num offset.toInt]⟩
  | .beq rs rt offset => ⟨.beq, [r rs, r rt, .num offset.toInt]⟩
  | .beqz rs offset => ⟨.beqz, [r rs, .num offset.toInt]⟩
  | .bgez rs offset => ⟨.bgez, [r rs, .num offset.toInt]⟩
  | .bne rs rt offset => ⟨.bne, [r rs, r rt, .num offset.toInt]⟩
  | .bnez rs offset => ⟨.bnez, [r rs, .num offset.toInt]⟩
  | .j index => ⟨.j, [.num index.toNat]⟩
  | .jal index => ⟨.jal, [.num index.toNat]⟩
  | .jalr rd rs => ⟨.jalr, [r rd, r rs]⟩
  | .jr rs => ⟨.jr, [r rs]⟩
  | .lb rt offset base => ⟨.lb, [r rt, .mem offset.toInt base.val]⟩
  | .lbu rt offset base => ⟨.lbu, [r rt, .mem offset.toInt base.val]⟩
  | .ld rt offset base => ⟨.ld, [r rt, .mem offset.toInt base.val]⟩
  | .lh rt offset base => ⟨.lh, [r rt, .mem offset.toInt base.val]⟩
  | .lhu rt offset base => ⟨.lhu, [r rt, .mem offset.toInt base.val]⟩
  | .lw rt offset base => ⟨.lw, [r rt, .mem offset.toInt base.val]⟩
  | .lwu rt offset base => ⟨.lwu, [r rt, .mem offset.toInt base.val]⟩
  | .sw rt offset base => ⟨.sw, [r rt, .mem offset.toInt base.val]⟩
  | .sb rt offset base => ⟨.sb, [r rt, .mem offset.toInt base.val]⟩
  | .sd rt offset base => ⟨.sd, [r rt, .mem offset.toInt base.val]⟩
  | .sh rt offset base => ⟨.sh, [r rt, .mem offset.toInt base.val]⟩
  | .halt => ⟨.halt, []⟩
  | .nop => ⟨.nop, []⟩

/-! ### Text (R66) -/

/-- The mnemonics as they are written, in capitals (R66). -/
def mnemonicNames : List (String × Mnemonic) :=
  [("ADD", .add), ("ADDI", .addi), ("ADDU", .addu), ("ADDIU", .addiu), ("DADD", .dadd), ("DADDI", .daddi), ("DADDU", .daddu),
   ("DADDIU", .daddiu), ("SUB", .sub), ("SUBU", .subu), ("DSUB", .dsub), ("DSUBU", .dsubu), ("AND", .and), ("ANDI", .andi),
   ("OR", .or), ("ORI", .ori), ("XOR", .xor), ("XORI", .xori), ("LUI", .lui), ("SLL", .sll), ("SLLV", .sllv),
   ("SRL", .srl), ("SRLV", .srlv), ("SRA", .sra), ("SRAV", .srav), ("DSLL", .dsll), ("DSLLV", .dsllv), ("DSRL", .dsrl),
   ("DSRLV", .dsrlv), ("DSRA", .dsra), ("DSRAV", .dsrav), ("SLT", .slt), ("SLTI", .slti), ("SLTIU", .sltiu), ("SLTU", .sltu),
   ("MOVN", .movn), ("MOVZ", .movz), ("MULT", .mult), ("MULTU", .multu), ("DMULT", .dmult), ("DMULTU", .dmultu), ("DIV", .div),
   ("DIVU", .divu), ("DDIV", .ddiv), ("DDIVU", .ddivu), ("MFHI", .mfhi), ("MFLO", .mflo), ("B", .b), ("BEQ", .beq),
   ("BEQZ", .beqz), ("BGEZ", .bgez), ("BNE", .bne), ("BNEZ", .bnez), ("J", .j), ("JAL", .jal), ("JALR", .jalr),
   ("JR", .jr), ("LB", .lb), ("LBU", .lbu), ("LD", .ld), ("LH", .lh), ("LHU", .lhu), ("LW", .lw),
   ("LWU", .lwu), ("SW", .sw), ("SB", .sb), ("SD", .sd), ("SH", .sh), ("HALT", .halt), ("NOP", .nop)]

/-- Blanks around an operand do not matter (DESIGN CHOICE, safe: notes/assumptions/17.md). -/
def trimBlanks (cs : List Char) : List Char :=
  let drop := List.dropWhile (fun c : Char => c == ' ' || c == '\t')
  (drop (drop cs).reverse).reverse

/-- The parts of a text between the characters `sep`. -/
def splitAt (sep : Char) : List Char → List (List Char)
  | [] => [[]]
  | c :: cs =>
    match splitAt sep cs with
    | [] => [[c]]
    | p :: ps => if c = sep then [] :: p :: ps else (c :: p) :: ps

/-- The value of a digit in base 16 or below. -/
def digitValue (base : Nat) (c : Char) : Option Nat :=
  let v :=
    if '0' ≤ c ∧ c ≤ '9' then c.toNat - 48
    else if 'a' ≤ c ∧ c ≤ 'f' then c.toNat - 87
    else if 'A' ≤ c ∧ c ≤ 'F' then c.toNat - 55
    else base
  if v < base then some v else none

/-- A run of digits, at least one. -/
def readDigits (base : Nat) (cs : List Char) : Option Nat :=
  if cs = [] then none
  else cs.foldl (fun acc c => acc.bind (fun n => (digitValue base c).map (fun v => n * base + v))) (some 0)

/-- A number, decimal or `0x` hexadecimal (R66, D25); leading zeros and hexadecimal digits in either case are read (DESIGN
CHOICE, safe: notes/assumptions/17.md). -/
def readNat : List Char → Option Nat
  | '0' :: 'x' :: cs => readDigits 16 cs
  | cs => readDigits 10 cs

/-- A number with an optional minus sign (R69); hexadecimal may have one too (DESIGN CHOICE, safe: notes/assumptions/17.md). -/
def readInt : List Char → Option Int
  | '-' :: cs => (readNat cs).map (fun n => -(n : Int))
  | cs => (readNat cs).map (fun n => (n : Int))

/-- `r<n>`, the letter in either case (R66, D25). Leading zeros are read, so `r01` is register 1, a spelling that R66 leaves
unspecified (DESIGN CHOICE, safe: notes/assumptions/17.md). -/
def readReg : List Char → Option Nat
  | 'r' :: cs => readDigits 10 cs
  | 'R' :: cs => readDigits 10 cs
  | _ => none

/-- `offset(base)` (R66), with blanks around either part (DESIGN CHOICE, safe: notes/assumptions/17.md). -/
def readAddress (cs : List Char) : Option (Int × Nat) :=
  match splitAt '(' cs with
  | [off, rest] =>
    match splitAt ')' rest with
    | [base, []] =>
      match readInt (trimBlanks off), readReg (trimBlanks base) with
      | some v, some n => some (v, n)
      | _, _ => none
    | _ => none
  | _ => none

/-- The address of a label: that of the first entry of its name. -/
def findLabel (labels : List (String × Word)) (cs : List Char) : Option Word :=
  (labels.find? (fun e => e.1.toList == cs)).map (fun e => e.2)

/-- An operand: a register, `offset(base)`, a number, or a label with its address (R66). R66 does not say how a label may be
spelled: every text that is none of the others, tried in that order, is looked up as a label, so `f(x` and `f(x)` may be labels,
and a label spelled like `r5`, `r99`, `10` or `8(r1)`, or with a blank at an end, a comma or a `;` in it, cannot be named
(DESIGN CHOICE, safe: notes/assumptions/17.md). -/
def readOperand (labels : List (String × Word)) (text : List Char) : Option AsmOperand :=
  let cs := trimBlanks text
  match readReg cs, readAddress cs, readInt cs with
  | some n, _, _ => some (.reg n)
  | none, some (v, n), _ => some (.mem v n)
  | none, none, some v => some (.num v)
  | none, none, none => (findLabel labels cs).map .label

/-- A line without its comment: a `;` starts one (spec/95_test_vectors.md section 2; R66 does not speak of comments). -/
def dropComment (text : List Char) : List Char := text.takeWhile (fun c => c != ';')

/-- A line of assembly: a mnemonic, then its operands separated by commas (R66), and perhaps a comment. R66 does not say whether
a line may hold no instruction or start with the label it defines; neither is read as a line (DESIGN CHOICE, safe:
notes/assumptions/17.md). -/
def readLine (labels : List (String × Word)) (text : List Char) : Option AsmLine :=
  let cs := trimBlanks (dropComment text)
  let name := cs.takeWhile (fun c => c != ' ' && c != '\t')
  let rest := trimBlanks (cs.dropWhile (fun c => c != ' ' && c != '\t'))
  match mnemonicNames.find? (fun e => e.1.toList == name) with
  | none => none
  | some e =>
    if rest = [] then some ⟨e.2, []⟩
    else ((splitAt ',' rest).mapM (readOperand labels)).map (fun ops => ⟨e.2, ops⟩)

end Sys2Proof
end

