-- ==== Sys2Proof/Safety.lean ====
section
/-! DEFINITION. The invariant of the machine, and what counts as a safe run and a good end of one (spec/10_state.md R20,
spec/70_reset_and_hazards.md R402). -/

namespace Sys2Proof.Machine

/-- What every step keeps: register 0's place holds 0 (R11), data memory is in canonical form, and no byte is listed outside
data memory (R19, R32). -/
structure State.Inv (s : State) : Prop where
  zeroReg : s.regs[0] = 0
  memWf : Memory.wf s.mem
  memInside : ∀ c ∈ s.mem, c.1 < s.params.dataMemBytes

/-- The run ended at a HALT: the only good end (R20, R402). -/
def State.endedWell (s : State) : Bool := decide (s.status = .halted)

/-- The run ended in a trap, which is never a good end (R20). -/
def State.trapped (s : State) : Bool :=
  match s.status with
  | .fault _ => true
  | _ => false

/-- The state of the run from `s` after at most `n` steps: it stays where the run ended (R402). -/
def runFor : Nat → State → State
  | 0, s => s
  | n + 1, s =>
    match step s with
    | .next s' => runFor n s'
    | _ => s

/-- No state of the first `n` steps from `s` has trapped. -/
def safeFor (n : Nat) (s : State) : Prop := ∀ k ≤ n, (runFor k s).trapped = false

end Sys2Proof.Machine
end

