-- ==== Sys2Proof/Certificates/Slice0/Obligations.lean ====
section
/-! DEFINITION. The statements about the machine. Each docstring names the rules of spec/ it formalises, and the spec's own
decisions (spec/92_eei_decisions.md) or the log entries (notes/assumptions/) it rests on. -/

open Sys2Proof Sys2Proof.Machine

namespace Sys2Proof.Claims

/-! ### The words of the statements -/

/-- From `s` to `t`, register `r` takes the value `v` (register 0 keeps reading 0: R11), the pc takes the next address, and
nothing else changes. -/
structure WritesRegister (s t : State) (r : Reg) (v : Word) : Prop where
  written : r ≠ 0 → t.reg r = v
  zero : t.reg 0 = 0
  others : ∀ q, q ≠ r → t.reg q = s.reg q
  hi : t.hi = s.hi
  lo : t.lo = s.lo
  bytes : ∀ a, t.mem.read a = s.mem.read a
  pc : t.pc = s.pc + 4
  status : t.status = s.status
  params : t.params = s.params
  code : t.code = s.code
  draws : t.draws = s.draws

/-- From `s` to `t`, HI and LO take the values `hi` and `lo`, `n` free values are drawn, the pc takes the next address, and
nothing else changes. -/
structure WritesHiLo (s t : State) (hi lo : Word) (n : Nat) : Prop where
  hi : t.hi = hi
  lo : t.lo = lo
  draws : t.draws = s.draws + n
  regs : ∀ q, t.reg q = s.reg q
  bytes : ∀ a, t.mem.read a = s.mem.read a
  pc : t.pc = s.pc + 4
  status : t.status = s.status
  params : t.params = s.params
  code : t.code = s.code

/-- From `s` to `t`, the pc becomes `target`, and nothing else changes. -/
structure GoesTo (s t : State) (target : Word) : Prop where
  pc : t.pc = target
  regs : ∀ q, t.reg q = s.reg q
  hi : t.hi = s.hi
  lo : t.lo = s.lo
  bytes : ∀ a, t.mem.read a = s.mem.read a
  status : t.status = s.status
  params : t.params = s.params
  code : t.code = s.code
  draws : t.draws = s.draws

/-- From `s` to `t`, register `r` takes the address of the next instruction, the pc becomes `target`, and nothing else
changes. -/
structure CallsTo (s t : State) (r : Reg) (target : Word) : Prop where
  link : r ≠ 0 → t.reg r = s.pc + 4
  zero : t.reg 0 = 0
  pc : t.pc = target
  others : ∀ q, q ≠ r → t.reg q = s.reg q
  hi : t.hi = s.hi
  lo : t.lo = s.lo
  bytes : ∀ a, t.mem.read a = s.mem.read a
  status : t.status = s.status
  params : t.params = s.params
  code : t.code = s.code
  draws : t.draws = s.draws

/-- `s` after taking the trap `e`: the run status is `fault e` and nothing else changes (R304). -/
def trappedAt (s : State) (e : Trap) : State := { s with status := .fault e }

/-- The instruction completes with `v` in register `r`. -/
def Gives (i : Instr) (s : State) (r : Reg) (v : Word) : Prop := ∃ t, exec i s = .next t ∧ WritesRegister s t r v

/-- The instruction completes at `target`. -/
def Goes (i : Instr) (s : State) (target : Word) : Prop := ∃ t, exec i s = .next t ∧ GoesTo s t target

/-- The instruction completes with the values `hi` and `lo` in HI and LO. -/
def GivesHiLo (i : Instr) (s : State) (hi lo : Word) : Prop := ∃ t, exec i s = .next t ∧ WritesHiLo s t hi lo 0

/-- The signed reading of bits 31:0 of register `r` (R6, R112). -/
def signedWord (s : State) (r : Reg) : Int := Int.bmod (s.reg r).toNat (2 ^ 32)

/-- The unsigned reading of bits 31:0 of register `r` (R6, R112). -/
def unsignedWord (s : State) (r : Reg) : Int := ((s.reg r).toNat % 2 ^ 32 : Nat)

/-- The signed and the unsigned reading of register `r` (R6). -/
def signedDouble (s : State) (r : Reg) : Int := (s.reg r).toInt

/-- The unsigned reading of register `r` (R6). -/
def unsignedDouble (s : State) (r : Reg) : Int := ((s.reg r).toNat : Int)

/-- The 64-bit register value of the 32-bit result congruent to the integer `x` modulo `2^32`, sign-extended (R112). -/
def wordResult (x : Int) : Word := BitVec.ofInt 64 (Int.bmod x (2 ^ 32))

/-- The 64-bit value congruent to the integer `x` modulo `2^64`. -/
def doubleResult (x : Int) : Word := BitVec.ofInt 64 x

/-- An instruction of exact result `x` and width `n`: a result that fits goes to `r`; one that does not traps (R113). -/
def GivesOrOverflows (i : Instr) (s : State) (r : Reg) (x : Int) (n : Nat) : Prop :=
  (-2 ^ (n - 1) ≤ x ∧ x ≤ 2 ^ (n - 1) - 1 → Gives i s r (doubleResult x)) ∧
  (x < -2 ^ (n - 1) ∨ 2 ^ (n - 1) - 1 < x → exec i s = .next (trappedAt s .integerOverflow))

/-- The word `w` spells the instruction `i` (R58): it is decoded to it, and it is what the encoder writes. -/
def Spells (w : Word32) (i : Instr) : Prop := decodeRow true w = some i ∧ ∀ p, encode p i = w

/-- An R-format word of major opcode 000000, from its fields (R51). -/
def rFormat (rs rt rd sa : Fin 32) (funct : BitVec 6) : Word32 :=
  (0b000000#6 ++ field5 rs ++ field5 rt ++ field5 rd ++ field5 sa ++ funct : Word32)

/-- An I-format word, from its fields (R52). -/
def iFormat (op : BitVec 6) (rs rt : Fin 32) (imm : Imm16) : Word32 := (op ++ field5 rs ++ field5 rt ++ imm : Word32)

/-- A load or store: how many bytes it moves, whether it sign-extends, and its operands (R33). -/
structure MemForm where
  size : Nat
  signed : Bool
  rt : Reg
  offset : Imm16
  base : Reg

/-- The seven loads. -/
def loadForm : Instr → Option MemForm
  | .lb rt offset base => some ⟨1, true, rt, offset, base⟩
  | .lbu rt offset base => some ⟨1, false, rt, offset, base⟩
  | .lh rt offset base => some ⟨2, true, rt, offset, base⟩
  | .lhu rt offset base => some ⟨2, false, rt, offset, base⟩
  | .lw rt offset base => some ⟨4, true, rt, offset, base⟩
  | .lwu rt offset base => some ⟨4, false, rt, offset, base⟩
  | .ld rt offset base => some ⟨8, false, rt, offset, base⟩
  | _ => none

/-- The four stores. -/
def storeForm : Instr → Option MemForm
  | .sb rt offset base => some ⟨1, false, rt, offset, base⟩
  | .sh rt offset base => some ⟨2, false, rt, offset, base⟩
  | .sw rt offset base => some ⟨4, false, rt, offset, base⟩
  | .sd rt offset base => some ⟨8, false, rt, offset, base⟩
  | _ => none

/-- The effective address of a load or store (R200). -/
def MemForm.address (m : MemForm) (s : State) : Word := s.effAddr m.base m.offset

/-- The access is aligned and inside data memory (R31, R32). -/
def MemForm.good (m : MemForm) (s : State) : Prop :=
  (m.address s).toNat % m.size = 0 ∧ (m.address s).toNat + m.size ≤ s.params.dataMemBytes

/-- The lowest bit that byte `k` of an `n`-byte access holds (R30). -/
def lowestBit (e : Endian) (n k : Nat) : Nat := if e = .little then 8 * k else 8 * (n - 1 - k)

/-- The general register an instruction writes, if it writes one (R13). -/
def destination : Instr → Option Reg
  | .add rd _ _ | .addu rd _ _ | .sub rd _ _ | .subu rd _ _ | .dadd rd _ _ | .daddu rd _ _ | .dsub rd _ _ => some rd
  | .dsubu rd _ _ | .and rd _ _ | .or rd _ _ | .xor rd _ _ | .slt rd _ _ | .sltu rd _ _ | .movn rd _ _ => some rd
  | .movz rd _ _ | .sll rd _ _ | .srl rd _ _ | .sra rd _ _ | .sllv rd _ _ | .srlv rd _ _ | .srav rd _ _ => some rd
  | .dsll rd _ _ | .dsrl rd _ _ | .dsra rd _ _ | .dsllv rd _ _ | .dsrlv rd _ _ | .dsrav rd _ _ => some rd
  | .mfhi rd | .mflo rd | .jalr rd _ => some rd
  | .addi rt _ _ | .addiu rt _ _ | .daddi rt _ _ | .daddiu rt _ _ | .andi rt _ _ | .ori rt _ _ | .xori rt _ _ => some rt
  | .lui rt _ | .slti rt _ _ | .sltiu rt _ _ => some rt
  | .lb rt _ _ | .lbu rt _ _ | .lh rt _ _ | .lhu rt _ _ | .lw rt _ _ | .lwu rt _ _ | .ld rt _ _ => some rt
  | .jal _ => some 31
  | _ => none

/-- The eight multiplies and divides (R14). -/
def isMultiplyOrDivide : Instr → Bool
  | .mult _ _ | .multu _ _ | .dmult _ _ | .dmultu _ _ | .div _ _ | .divu _ _ | .ddiv _ _ | .ddivu _ _ => true
  | _ => false

/-- The two readers of HI and LO (R14). -/
def readsHiLo : Instr → Bool
  | .mfhi _ | .mflo _ => true
  | _ => false

/-- The exact result and the width of the six instructions that trap on overflow (R301). -/
def exactResult (s : State) : Instr → Option (Int × Nat)
  | .add _ rs rt => some (signedWord s rs + signedWord s rt, 32)
  | .addi _ rs imm => some (signedWord s rs + imm.toInt, 32)
  | .sub _ rs rt => some (signedWord s rs - signedWord s rt, 32)
  | .dadd _ rs rt => some (signedDouble s rs + signedDouble s rt, 64)
  | .daddi _ rs imm => some (signedDouble s rs + imm.toInt, 64)
  | .dsub _ rs rt => some (signedDouble s rs - signedDouble s rt, 64)
  | _ => none

/-- The quotient `q` and the remainder `r` of `a` by `b`, rounded toward zero (R172). -/
def IsDivision (a b q r : Int) : Prop :=
  a = q * b + r ∧ |r| < |b| ∧ (0 ≤ a → 0 ≤ r) ∧ (a ≤ 0 → r ≤ 0)

/-- What the place of number `k` holds in a launched state where the host supplies nothing: 0 with `RESET_REGS = zero`, else a
free value of its own (R24, R26; log 25). -/
def startValue (l : LaunchState) (k : Nat) : Word :=
  if l.params.resetRegs = .zero then 0 else Config.freeValue (l.firstDraw + k)

/-- The target of a branch at the pc of `s` (R180). -/
def branchTo (s : State) (offset : Imm16) : Word := BitVec.ofInt 64 ((s.pc.toNat : Int) + 4 + 4 * offset.toInt)

/-- The target of J and JAL at the pc of `s` (R181). -/
def regionTo (s : State) (index : Index26) : Word :=
  BitVec.ofNat 64 ((s.pc + 4).toNat / 2 ^ 28 * 2 ^ 28 + 4 * index.toNat)

end Sys2Proof.Claims

open Sys2Proof.Claims

/-! ### Encoding (spec/30_encoding.md) -/

/-- For every well-formed parameters and every instruction, with every operand at every value, the encoded word is decoded to
the instruction, or for the four idioms to the core instruction of R64 (R55, R58, R59, R61, R64; the bit patterns are the
spec's decision D15 and HALT's word its decision D14; that an idiom's word is read as the core instruction is log 14). -/
def Obligations.EncodedInstructionDecodesToItself : Prop :=
  ∀ (p : Params) (i : Instr), p.wellFormed = true → decode p (encode p i) = some i.expand

/-- Under strict decode an instruction is read from one word only, the one the encoder writes for it, and it is a core
instruction: a word with a bit set in an unused field is read as nothing (R60, R61, R62; the spec's decision D15). -/
def Obligations.StrictDecodeDropsNoBit : Prop :=
  ∀ (p : Params) (w : Word32) (i : Instr), p.strictDecode = true → decode p w = some i →
    encode p i = w ∧ i.isCore = true

/-- Decoding a word is what R61 says: HALT_WORD is HALT; else a word that a row of the table spells is that row's instruction,
and a word that no row spells is reserved (R58, R61, R62; the spec's decisions D14 and D15). -/
def Obligations.DecodeFollowsOpcodeTable : Prop :=
  ∀ p : Params, p.strictDecode = true → decode p p.haltWord = some .halt ∧
    ∀ w : Word32, w ≠ p.haltWord →
      (∀ r ∈ coreRows, r.spells w = true →
        ∃ i, decode p w = some i ∧ (r.mnemonic, i.line.mnemonic) ∈ mnemonicNames) ∧
      ((∀ r ∈ coreRows, r.spells w = false) → decode p w = none)

/-- The 66 rows of the table that are not idioms are pairwise disjoint: no word is spelled by two of them (R61). -/
def Obligations.OpcodeRowsAreDisjoint : Prop :=
  (opcodeTable.filter (fun r => !r.idiom)).length = 66 ∧
  (opcodeTable.filter (fun r => !r.idiom)).Pairwise
    (fun r q => ∀ w : Word32, ¬ (r.spells w = true ∧ q.spells w = true))

/-- Words written out from R58 are decoded to the instructions they stand for, and reserved words to none (R58, R62; the
spec's decision D15). -/
def Obligations.WrittenOutWordsDecode : Prop :=
  decode defaultParams (0b00000000001000100001100000100000 : Word32) = some (.add 3 1 2) ∧
  decode defaultParams (0b00110000001000101000000000000001 : Word32) = some (.andi 2 1 0x8001) ∧
  decode defaultParams (0b00000000000000100001100100000000 : Word32) = some (.sll 3 2 4) ∧
  decode defaultParams (0b00000000001000100001100000001011 : Word32) = some (.movn 3 1 2) ∧
  decode defaultParams (0b00000000001000100000000000011010 : Word32) = some (.div 1 2) ∧
  decode defaultParams (0b00000100001000010000000000000011 : Word32) = some (.bgez 1 3) ∧
  decode defaultParams (0b00001100000000000000000000010000 : Word32) = some (.jal 16) ∧
  decode defaultParams (0b11011100001000101111111111111000 : Word32) = some (.ld 2 0xFFF8 1) ∧
  decode defaultParams (0b00000100000000000000000000000000 : Word32) = some .halt ∧
  decode defaultParams (0b00000000001000100001100000100111 : Word32) = none ∧
  decode defaultParams (0b00000000001000000000100000000010 : Word32) = none

/-- Each idiom has the effect of the instruction it assembles to, in every state (R64; the spec's decision D16). -/
def Obligations.IdiomActsAsItsExpansion : Prop :=
  ∀ (i : Instr) (s : State), exec i s = exec i.expand s

/-! ### The assembler (spec/30_encoding.md R67 to R69) -/

/-- Every instruction can be written as an assembly line that the assembler accepts, at any code address, and assembles to that
instruction; and the one-operand line of JALR assembles to the JALR whose link register is `x[31]` (R55, R67, R69, R190; the
spec's decisions D24 and D25). -/
def Obligations.InstructionLineAssemblesToItself : Prop :=
  ∀ pc : Word, (∀ i : Instr, i.line.wellFormed pc = true ∧ assemble pc i.line = some i) ∧
    ∀ rs : Reg, assemble pc ⟨.jalr, [.reg rs.val]⟩ = some (.jalr 31 rs)

/-- The assembler accepts exactly the lines whose operands are those of the mnemonic's syntax class and in range
(R67, R68, R69; the spec's decision D25). Both sides hold the ranges that are DESIGN CHOICES of the model where the spec leaves
them open (log 17): labels across the end of the address space, 32768 to 65535 in decimal as a 16-bit pattern of a signed field,
and the ranges of explicit branch and jump operands. -/
def Obligations.AssemblerAcceptsExactlyWellFormedLines : Prop :=
  ∀ (pc : Word) (l : AsmLine), (assemble pc l).isSome = l.wellFormed pc

/-- Each of the six branches, J and JAL, assembled at the pc to a label, goes to that label, a branch with a condition where it
holds and to the next instruction where not: the field computations of R68 are the inverses of R180 and R181 (R68; the spec's
decisions D10, D11 and D12). That a branch reaches a label across the end of the address space, its distance taken modulo
`2^64`, is a DESIGN CHOICE of the model (log 17). -/
def Obligations.AssembledLabelIsReached : Prop :=
  ∀ (s : State) (l : Word) (a b : Reg) (i : Instr),
    (assemble s.pc ⟨.b, [.label l]⟩ = some i → Goes i s l) ∧
    (assemble s.pc ⟨.beq, [.reg a.val, .reg b.val, .label l]⟩ = some i →
      Goes i s (if s.reg a = s.reg b then l else s.pc + 4)) ∧
    (assemble s.pc ⟨.bne, [.reg a.val, .reg b.val, .label l]⟩ = some i →
      Goes i s (if s.reg a ≠ s.reg b then l else s.pc + 4)) ∧
    (assemble s.pc ⟨.beqz, [.reg a.val, .label l]⟩ = some i → Goes i s (if s.reg a = 0 then l else s.pc + 4)) ∧
    (assemble s.pc ⟨.bnez, [.reg a.val, .label l]⟩ = some i → Goes i s (if s.reg a ≠ 0 then l else s.pc + 4)) ∧
    (assemble s.pc ⟨.bgez, [.reg a.val, .label l]⟩ = some i → Goes i s (if 0 ≤ signedDouble s a then l else s.pc + 4)) ∧
    (assemble s.pc ⟨.j, [.label l]⟩ = some i → Goes i s l) ∧
    (assemble s.pc ⟨.jal, [.label l]⟩ = some i → ∃ t, exec i s = .next t ∧ CallsTo s t 31 l)

/-! ### A step (spec/70_reset_and_hazards.md R405) -/

/-- When the machine runs and the code word at the pc is decoded to an instruction, the step is that instruction
(R405; the spec's decision D2). Nothing is added around it. -/
def Obligations.StepRunsDecodedInstruction : Prop :=
  ∀ (s : State) (w : Word32) (i : Instr), s.status = .running → s.pc.toNat % 4 = 0 →
    s.params.codeBase.toNat ≤ s.pc.toNat →
    s.code[(s.pc.toNat - s.params.codeBase.toNat) / 4]? = some w → decode s.params w = some i →
    step s = exec i s

/-- A step at a pc that is not a multiple of 4 or is outside the program traps with the pc's address, whatever the code space
holds, and nothing else changes (R16, R303(a), R306; the spec's decision D23). -/
def Obligations.BadPcTrapsAtFetch : Prop :=
  ∀ s : State, s.status = .running →
    (s.pc.toNat % 4 ≠ 0 ∨ s.pc.toNat < s.params.codeBase.toNat ∨
      s.params.codeBase.toNat + 4 * s.code.length ≤ s.pc.toNat) →
    step s = .next (trappedAt s (.addressError .fetch s.pc))

/-- A fetched word that spells no instruction traps with the word, and nothing else changes (R62, R302; the spec's decision
D15). -/
def Obligations.ReservedWordTraps : Prop :=
  ∀ (s : State) (w : Word32), s.status = .running → s.pc.toNat % 4 = 0 →
    s.params.codeBase.toNat ≤ s.pc.toNat →
    s.code[(s.pc.toNat - s.params.codeBase.toNat) / 4]? = some w → decode s.params w = none →
    step s = .next (trappedAt s (.reservedInstruction w))

/-- A step has a next state exactly when the run status is `running` (R20, R405; that an ended run answers a fault of the
interface is log 7). -/
def Obligations.ExactlyRunningStatesStep : Prop :=
  ∀ s : State, (∃ t, step s = .next t) ↔ s.status = .running

/-- The word placed where the reset machine fetches is the instruction its first step runs (log 6: the model's choice). -/
def Obligations.PlacedWordRunsFirst : Prop :=
  ∀ (w : Nat) (i : Instr), decodeTableWord 32 w = some i →
    step (State.reset.withFetchWord 32 w) = exec i (State.reset.withFetchWord 32 w)

/-! ### Reset and launch (spec/10_state.md R24 to R27, spec/70_reset_and_hazards.md R400 to R402) -/

/-- What reset leaves: `x[0]` reads 0, the pc is CODE_BASE, and the run status is `running` (R24, R25, R27, which the spec
marks as its own decisions D9 and D20). -/
def Obligations.ResetLeavesPcAtCodeBaseAndRunning : Prop :=
  State.reset.reg 0 = 0 ∧ State.reset.pc = State.reset.params.codeBase ∧ State.reset.status = .running

/-- The launch of R400 and R401: the host may launch exactly what keeps the rules, and then the program, the parameters, the
memory image and the register values are the host's, the pc is CODE_BASE and the machine runs. What the host does not supply is
0 with `RESET_REGS = zero` and a free value of its own with `RESET_REGS = unspecified` (R24, R26; the spec's decisions D20 and
D28). The form of the free values, and that the later of two entries for one place counts, are the model's choices (logs 25 and
16); so is which HALT_WORDs are admitted (log 18). -/
def Obligations.LaunchBuildsTheStateTheHostSupplies : Prop :=
  ∀ l : LaunchState,
    ((launch l).isSome = true ↔
      l.params.wellFormed = true ∧ (∀ c ∈ l.image, c.1 < l.params.dataMemBytes) ∧
        (∀ e ∈ l.regs, e.1 = 0 → e.2 = 0)) ∧
    ∀ s, launch l = some s →
      s.params = l.params ∧ s.code = l.program ∧ s.pc = l.params.codeBase ∧ s.status = .running ∧
      s.reg 0 = 0 ∧ s.hi = l.hi.getD (startValue l 32) ∧ s.lo = l.lo.getD (startValue l 33) ∧ s.Inv ∧
      s.draws = l.firstDraw + (if l.params.resetRegs = .zero then 0 else 34 + l.params.dataMemBytes) ∧
      (∀ r, r ≠ 0 → s.reg r = ((l.regs.reverse.find? (fun e => e.1 == r)).map (·.2)).getD (startValue l r.val)) ∧
      (∀ a < l.params.dataMemBytes, s.mem.read a =
        ((l.image.reverse.find? (fun c => c.1 == a)).map (·.2)).getD ((startValue l (34 + a)).setWidth 8))

/-- A run that has ended stays as it ended: every later state is the state at its end (R20, R304, R402; the spec's decisions
D13 and D28). -/
def Obligations.EndedRunStaysEnded : Prop :=
  ∀ (s : State) (n m : Nat), (runFor n s).status ≠ .running → n ≤ m → runFor m s = runFor n s

/-- A run that ends at a HALT never trapped on the way (R20, R304; the spec's decision D13). -/
def Obligations.GoodEndMeansNoTrap : Prop :=
  ∀ (s : State) (n : Nat), (runFor n s).endedWell = true → safeFor n s

/-- A running processor always takes a step, and stops only at a HALT, which ends the run for good, or in a fault (R317). -/
def Obligations.OnlyHaltOrFaultStops : Prop :=
  ∀ s : State, s.status = .running → ∃ t, step s = .next t ∧ (t.status ≠ .running →
    ((t.status = .halted ∧ ∃ w, s.fetch = some w ∧ decode s.params w = some .halt) ∨ ∃ e, t.status = .fault e) ∧
    ∀ u, step t ≠ .next u)

/-! ### Invariants -/

/-- The reset state meets the invariant of the machine (R11, R19; the canonical form of memory is the model's own). -/
def Obligations.ResetMeetsTheInvariant : Prop := State.reset.Inv

/-- Every step keeps the invariant: register 0's place holds 0, memory stays in canonical form, and no byte is listed outside
data memory (R11, R32; the canonical form of memory is the model's own). -/
def Obligations.StepKeepsTheInvariant : Prop :=
  ∀ s t : State, s.Inv → step s = .next t → t.Inv

/-- Every state of a run from any launch meets the invariant (R400; the spec's decision D20). -/
def Obligations.LaunchedRunsKeepTheInvariant : Prop :=
  ∀ (l : LaunchState) (s : State) (n : Nat), launch l = some s → (runFor n s).Inv

/-- No step changes the program or the parameters (R19, R41; the spec's decision D8; logs 1, 2 and 10). -/
def Obligations.StepKeepsProgramAndParameters : Prop :=
  ∀ s t : State, step s = .next t → t.code = s.code ∧ t.params = s.params

/-- No instruction reads the code space or writes it: with another program in place it does the same (R19, R41, R43; the
spec's decision D8; log 10). -/
def Obligations.NoInstructionTouchesTheProgram : Prop :=
  ∀ (i : Instr) (s t : State) (c : List Word32), exec i s = .next t →
    exec i { s with code := c } = .next { t with code := c }

/-- From an aligned pc every instruction but JR and JALR leaves an aligned pc (R16; the spec's decision D23). -/
def Obligations.OnlyRegisterJumpsMisalignThePc : Prop :=
  ∀ (i : Instr) (s t : State), exec i s = .next t → s.pc.toNat % 4 = 0 → (∀ rs, i ≠ .jr rs) →
    (∀ rd rs, i ≠ .jalr rd rs) → t.pc.toNat % 4 = 0

/-- Two memories in canonical form that read alike at every address are equal (the model's own representation of the data
space of R19). -/
def Obligations.EqualReadsMeanEqualMemory : Prop :=
  ∀ m m' : Memory, Memory.wf m → Memory.wf m' → (∀ a, m.read a = m'.read a) → m = m'

/-! ### What only some instructions do -/

/-- No instruction changes a general register other than the one R13 lists for it, and register 0 reads 0 after every one
(R11, R13; the spec marks R13 as derived and R11 as its decisions D3 and D29). -/
def Obligations.OnlyTheDestinationRegisterChanges : Prop :=
  ∀ (i : Instr) (s t : State), exec i s = .next t →
    t.reg 0 = 0 ∧ ∀ r, destination i ≠ some r → t.reg r = s.reg r

/-- HI and LO are written only by the multiplies and divides and read only by MFHI and MFLO: another instruction leaves them,
and does the same whatever they hold (R14). -/
def Obligations.OnlyMultiplyDivideAndMovesTouchHiLo : Prop :=
  ∀ (i : Instr) (s t : State), exec i s = .next t →
    (isMultiplyOrDivide i = false → t.hi = s.hi ∧ t.lo = s.lo) ∧
    (readsHiLo i = false → ∀ h l : Word, ∃ u, exec i { s with hi := h, lo := l } = .next u ∧
      u.regs = t.regs ∧ u.pc = t.pc ∧ u.mem = t.mem ∧ u.status = t.status ∧ u.draws = t.draws ∧
      (u.hi = t.hi ∨ u.hi = h) ∧ (u.lo = t.lo ∨ u.lo = l))

/-- Only a store changes data memory (R19, R34; the spec's decision D8). -/
def Obligations.OnlyStoresChangeMemory : Prop :=
  ∀ (i : Instr) (s t : State), exec i s = .next t → storeForm i = none → ∀ a, t.mem.read a = s.mem.read a

/-- A trap is precise: a step that traps changes the run status and nothing else (R304, R405; the spec's decision D13). -/
def Obligations.TrapsChangeOnlyTheStatus : Prop :=
  ∀ (s t : State) (e : Trap), step s = .next t → t.status = .fault e → t = trappedAt s e

/-- Integer overflow is raised by ADD, ADDI, SUB, DADD, DADDI and DSUB exactly when the exact result does not fit, and by no
other instruction (R113, R301; that the destination keeps its value is the spec's decision D30). -/
def Obligations.OnlySixInstructionsOverflow : Prop :=
  ∀ (i : Instr) (s t : State), s.status = .running → exec i s = .next t →
    (t.status = .fault .integerOverflow ↔
      ∃ x n, exactResult s i = some (x, n) ∧ (x < -2 ^ (n - 1) ∨ 2 ^ (n - 1) - 1 < x)) ∧
    (t.status = .fault .integerOverflow → t = trappedAt s .integerOverflow)

/-- HALT is the only instruction that ends a run normally, and every running machine's HALT does (R222). -/
def Obligations.OnlyHaltEndsTheRun : Prop :=
  ∀ (i : Instr) (s t : State), s.status = .running → exec i s = .next t → (t.status = .halted ↔ i = .halt)

/-! ### Addition and subtraction (spec/40_add_sub.md) -/

/-- ADD, ADDI and SUB write the exact 32-bit result or trap (R100, R101, R108, R112, R113; which bits are the word and what the
upper half becomes is the spec's decision D5, the trapped state its decision D30, ADDI's sign extension its D26; log 8). -/
def Obligations.WordAddSubIsExactOrTraps : Prop :=
  ∀ (s : State) (rd rs rt : Reg) (imm : Imm16),
    GivesOrOverflows (.add rd rs rt) s rd (signedWord s rs + signedWord s rt) 32 ∧
    GivesOrOverflows (.addi rt rs imm) s rt (signedWord s rs + imm.toInt) 32 ∧
    GivesOrOverflows (.sub rd rs rt) s rd (signedWord s rs - signedWord s rt) 32

/-- DADD, DADDI and DSUB write the exact 64-bit result or trap (R104, R105, R110, R113; the trapped state is the spec's decision
D30, DADDI's sign extension its D26). -/
def Obligations.DoubleAddSubIsExactOrTraps : Prop :=
  ∀ (s : State) (rd rs rt : Reg) (imm : Imm16),
    GivesOrOverflows (.dadd rd rs rt) s rd (signedDouble s rs + signedDouble s rt) 64 ∧
    GivesOrOverflows (.daddi rt rs imm) s rt (signedDouble s rs + imm.toInt) 64 ∧
    GivesOrOverflows (.dsub rd rs rt) s rd (signedDouble s rs - signedDouble s rt) 64

/-- ADDU, ADDIU and SUBU write the 32-bit result modulo `2^32`, sign-extended, and never trap (R102, R103, R109; the upper half is
the spec's decision D5; log 8). -/
def Obligations.WordAddSubUnsignedWraps : Prop :=
  ∀ (s : State) (rd rs rt : Reg) (imm : Imm16),
    Gives (.addu rd rs rt) s rd (wordResult (signedWord s rs + signedWord s rt)) ∧
    Gives (.addiu rt rs imm) s rt (wordResult (signedWord s rs + imm.toInt)) ∧
    Gives (.subu rd rs rt) s rd (wordResult (signedWord s rs - signedWord s rt))

/-- DADDU, DADDIU and DSUBU write the 64-bit result modulo `2^64` and never trap, and these are their words
(R106, R107, R111). -/
def Obligations.DoubleAddSubUnsignedWraps : Prop :=
  ∀ (s : State) (rd rs rt : Reg) (imm : Imm16),
    (Gives (.daddu rd rs rt) s rd (doubleResult (signedDouble s rs + signedDouble s rt)) ∧
      Spells (rFormat rs rt rd 0 0b101101) (.daddu rd rs rt)) ∧
    (Gives (.daddiu rt rs imm) s rt (doubleResult (signedDouble s rs + imm.toInt)) ∧
      Spells (iFormat 0b011001 rs rt imm) (.daddiu rt rs imm)) ∧
    (Gives (.dsubu rd rs rt) s rd (doubleResult (signedDouble s rs - signedDouble s rt)) ∧
      Spells (rFormat rs rt rd 0 0b101111) (.dsubu rd rs rt))

/-! ### Logical operations and LUI (spec/41_logical.md) -/

/-- AND, ANDI, OR and XOR act on each of the 64 bits, ANDI's immediate zero-extended, and these are their words
(R120, R121, R122, R124). -/
def Obligations.LogicalOperationsActBitByBit : Prop :=
  ∀ (s : State) (rd rs rt : Reg) (imm : Imm16),
    ((∃ v, Gives (.and rd rs rt) s rd v ∧
        ∀ k < 64, v.getLsbD k = ((s.reg rs).getLsbD k && (s.reg rt).getLsbD k)) ∧
      Spells (rFormat rs rt rd 0 0b100100) (.and rd rs rt)) ∧
    ((∃ v, Gives (.andi rt rs imm) s rt v ∧
        ∀ k < 64, v.getLsbD k = ((s.reg rs).getLsbD k && (decide (k < 16) && imm.getLsbD k))) ∧
      Spells (iFormat 0b001100 rs rt imm) (.andi rt rs imm)) ∧
    ((∃ v, Gives (.or rd rs rt) s rd v ∧
        ∀ k < 64, v.getLsbD k = ((s.reg rs).getLsbD k || (s.reg rt).getLsbD k)) ∧
      Spells (rFormat rs rt rd 0 0b100101) (.or rd rs rt)) ∧
    ((∃ v, Gives (.xor rd rs rt) s rd v ∧
        ∀ k < 64, v.getLsbD k = ((s.reg rs).getLsbD k != (s.reg rt).getLsbD k)) ∧
      Spells (rFormat rs rt rd 0 0b100110) (.xor rd rs rt))

/-- ORI and XORI act on each of the 64 bits with a zero-extended immediate, and LUI writes the immediate times 65536, signed
(R123, R125, R126; the extensions are the spec's decision D26). -/
def Obligations.OriXoriAndLuiExtendTheirImmediate : Prop :=
  ∀ (s : State) (rt rs : Reg) (imm : Imm16),
    (∃ v, Gives (.ori rt rs imm) s rt v ∧
      ∀ k < 64, v.getLsbD k = ((s.reg rs).getLsbD k || (decide (k < 16) && imm.getLsbD k))) ∧
    (∃ v, Gives (.xori rt rs imm) s rt v ∧
      ∀ k < 64, v.getLsbD k = ((s.reg rs).getLsbD k != (decide (k < 16) && imm.getLsbD k))) ∧
    Gives (.lui rt imm) s rt (doubleResult (imm.toInt * 65536))

/-! ### Shifts (spec/42_shift.md) -/

/-- Shift amounts: a shift by a constant shifts by its 5-bit field, 0 to 31, a word shift by register by the low-order 5 bits of
`x[rs]` and a doubleword shift by register by the low-order 6, whatever the other bits; the assembly operands are `rd, rt, rs`
and the value shifted is `x[rt]` (R130 to R142; the words of the shifts by a constant are R58 and R51, the spec's decision D15
and log 11; the upper half of a word result is its decision D5 and log 8; that the assembler refuses an amount below 0 or above
31 is R69, its decision D25). -/
def Obligations.ShiftAmountsAreLowOrderBits : Prop :=
  ∀ (s : State) (pc : Word) (rd rt rs : Reg),
    (∀ sa : ShiftAmount, sa.val = (s.reg rs).toNat % 32 →
      exec (.sllv rd rt rs) s = exec (.sll rd rt sa) s ∧
      exec (.srlv rd rt rs) s = exec (.srl rd rt sa) s ∧
      exec (.srav rd rt rs) s = exec (.sra rd rt sa) s) ∧
    (∀ sa : ShiftAmount, sa.val = (s.reg rs).toNat % 64 →
      exec (.dsllv rd rt rs) s = exec (.dsll rd rt sa) s ∧
      exec (.dsrlv rd rt rs) s = exec (.dsrl rd rt sa) s ∧
      exec (.dsrav rd rt rs) s = exec (.dsra rd rt sa) s) ∧
    (∀ sa : ShiftAmount,
      Gives (.sll rd rt sa) s rd (wordResult (unsignedWord s rt * 2 ^ sa.val)) ∧
      Gives (.srl rd rt sa) s rd (wordResult (unsignedWord s rt / 2 ^ sa.val)) ∧
      Gives (.sra rd rt sa) s rd (wordResult (signedWord s rt / 2 ^ sa.val)) ∧
      Gives (.dsll rd rt sa) s rd (doubleResult (unsignedDouble s rt * 2 ^ sa.val)) ∧
      Gives (.dsrl rd rt sa) s rd (doubleResult (unsignedDouble s rt / 2 ^ sa.val)) ∧
      Gives (.dsra rd rt sa) s rd (doubleResult (signedDouble s rt / 2 ^ sa.val))) ∧
    (∃ v, Gives (.sllv rd rt rs) s rd v ∧
      v.toNat % 2 ^ 32 = (s.reg rt).toNat * 2 ^ ((s.reg rs).toNat % 32) % 2 ^ 32) ∧
    (∃ v, Gives (.srlv rd rt rs) s rd v ∧
      v.toNat % 2 ^ 32 = (s.reg rt).toNat % 2 ^ 32 / 2 ^ ((s.reg rs).toNat % 32)) ∧
    (∃ v, Gives (.srav rd rt rs) s rd v ∧
      Int.bmod v.toNat (2 ^ 32) = signedWord s rt / 2 ^ ((s.reg rs).toNat % 32)) ∧
    Gives (.dsllv rd rt rs) s rd (BitVec.ofNat 64 ((s.reg rt).toNat * 2 ^ ((s.reg rs).toNat % 64))) ∧
    Gives (.dsrlv rd rt rs) s rd (BitVec.ofNat 64 ((s.reg rt).toNat / 2 ^ ((s.reg rs).toNat % 64))) ∧
    Gives (.dsrav rd rt rs) s rd (BitVec.ofInt 64 ((s.reg rt).toInt / 2 ^ ((s.reg rs).toNat % 64))) ∧
    (∀ m k, (m, k) ∈ [(Mnemonic.sllv, Instr.sllv), (.srlv, .srlv), (.srav, .srav), (.dsllv, .dsllv),
        (.dsrlv, .dsrlv), (.dsrav, .dsrav)] →
      assemble pc ⟨m, [.reg rd.val, .reg rt.val, .reg rs.val]⟩ = some (k rd rt rs)) ∧
    (∀ m k f, (m, k, f) ∈ [(Mnemonic.sll, Instr.sll, 0b000000#6), (.srl, .srl, 0b000010#6), (.sra, .sra, 0b000011#6),
        (.dsll, .dsll, 0b111000#6), (.dsrl, .dsrl, 0b111010#6), (.dsra, .dsra, 0b111011#6)] →
      ∀ sa : ShiftAmount, Spells (rFormat 0 rt rd sa f) (k rd rt sa) ∧ ∀ n : Int,
        (n = sa.val → assemble pc ⟨m, [.reg rd.val, .reg rt.val, .num n]⟩ = some (k rd rt sa)) ∧
        (n < 0 ∨ 31 < n → assemble pc ⟨m, [.reg rd.val, .reg rt.val, .num n]⟩ = none))

/-- The word shifts: the low 32 bits are multiplied by, or divided with floor by, the power of two of the amount, as an unsigned
or (SRA, SRAV) as a signed word, and the 32-bit result is sign-extended (R130 to R135, R143; the sign extension is the spec's
decision D5; log 8). -/
def Obligations.WordShiftsScaleTheLowWord : Prop :=
  ∀ (s : State) (rd rt rs : Reg) (sa : ShiftAmount),
    Gives (.sll rd rt sa) s rd (wordResult (unsignedWord s rt * 2 ^ sa.val)) ∧
    Gives (.srl rd rt sa) s rd (wordResult (unsignedWord s rt / 2 ^ sa.val)) ∧
    Gives (.sra rd rt sa) s rd (wordResult (signedWord s rt / 2 ^ sa.val)) ∧
    Gives (.sllv rd rt rs) s rd (wordResult (unsignedWord s rt * 2 ^ ((s.reg rs).toNat % 32))) ∧
    Gives (.srlv rd rt rs) s rd (wordResult (unsignedWord s rt / 2 ^ ((s.reg rs).toNat % 32))) ∧
    Gives (.srav rd rt rs) s rd (wordResult (signedWord s rt / 2 ^ ((s.reg rs).toNat % 32)))

/-- The doubleword shifts by a constant and by register, and their words (R136 to R141). -/
def Obligations.DoubleShiftsScaleTheRegister : Prop :=
  ∀ (s : State) (rd rt rs : Reg) (sa : ShiftAmount),
    (Gives (.dsll rd rt sa) s rd (doubleResult (unsignedDouble s rt * 2 ^ sa.val)) ∧
      Spells (rFormat 0 rt rd sa 0b111000) (.dsll rd rt sa)) ∧
    (Gives (.dsrl rd rt sa) s rd (doubleResult (unsignedDouble s rt / 2 ^ sa.val)) ∧
      Spells (rFormat 0 rt rd sa 0b111010) (.dsrl rd rt sa)) ∧
    (Gives (.dsra rd rt sa) s rd (doubleResult (signedDouble s rt / 2 ^ sa.val)) ∧
      Spells (rFormat 0 rt rd sa 0b111011) (.dsra rd rt sa)) ∧
    (Gives (.dsllv rd rt rs) s rd (doubleResult (unsignedDouble s rt * 2 ^ ((s.reg rs).toNat % 64))) ∧
      Spells (rFormat rs rt rd 0 0b010100) (.dsllv rd rt rs)) ∧
    (Gives (.dsrlv rd rt rs) s rd (doubleResult (unsignedDouble s rt / 2 ^ ((s.reg rs).toNat % 64))) ∧
      Spells (rFormat rs rt rd 0 0b010110) (.dsrlv rd rt rs)) ∧
    (Gives (.dsrav rd rt rs) s rd (doubleResult (signedDouble s rt / 2 ^ ((s.reg rs).toNat % 64))) ∧
      Spells (rFormat rs rt rd 0 0b010111) (.dsrav rd rt rs))

/-! ### Comparisons and conditional moves (spec/43_compare_move.md) -/

/-- SLT and SLTI write 1 or 0 as the signed comparison is true or false (R150, R151; that they are signed is general knowledge in
the spec, SLTI's sign extension its decision D26). -/
def Obligations.SignedComparisonsWriteOneOrZero : Prop :=
  ∀ (s : State) (rd rs rt : Reg) (imm : Imm16),
    Gives (.slt rd rs rt) s rd (if signedDouble s rs < signedDouble s rt then 1 else 0) ∧
    Gives (.slti rt rs imm) s rt (if signedDouble s rs < imm.toInt then 1 else 0)

/-- SLTIU and SLTU write 1 or 0 as the unsigned comparison is true or false, SLTIU's immediate sign-extended and then read as
unsigned, and these are their words (R152, R153). -/
def Obligations.UnsignedComparisonsWriteOneOrZero : Prop :=
  ∀ (s : State) (rd rs rt : Reg) (imm : Imm16),
    (Gives (.sltiu rt rs imm) s rt
        (if (s.reg rs).toNat < (if imm.toNat < 2 ^ 15 then imm.toNat else imm.toNat + (2 ^ 64 - 2 ^ 16)) then 1 else 0) ∧
      Spells (iFormat 0b001011 rs rt imm) (.sltiu rt rs imm)) ∧
    (Gives (.sltu rd rs rt) s rd (if (s.reg rs).toNat < (s.reg rt).toNat then 1 else 0) ∧
      Spells (rFormat rs rt rd 0 0b101011) (.sltu rd rs rt))

/-- MOVN moves when `x[rt]` is not zero and MOVZ when it is zero; otherwise only the pc changes; and these are their words
(R154, R155). -/
def Obligations.ConditionalMovesMoveOrOnlyAdvance : Prop :=
  ∀ (s : State) (rd rs rt : Reg),
    (s.reg rt ≠ 0 → Gives (.movn rd rs rt) s rd (s.reg rs) ∧ Goes (.movz rd rs rt) s (s.pc + 4)) ∧
    (s.reg rt = 0 → Goes (.movn rd rs rt) s (s.pc + 4) ∧ Gives (.movz rd rs rt) s rd (s.reg rs)) ∧
    Spells (rFormat rs rt rd 0 0b001011) (.movn rd rs rt) ∧
    Spells (rFormat rs rt rd 0 0b001010) (.movz rd rs rt)

/-! ### Multiply, divide, HI and LO (spec/44_muldiv.md) -/

/-- MULT and MULTU put the low half of the exact product in LO and the high half in HI, each sign-extended; with MULT_WRITES_HI
false HI keeps its value (R160, R161, R171; the spec's decisions D5 and D17; log 8). -/
def Obligations.WordMultiplyWritesBothHalves : Prop :=
  ∀ (s : State) (rs rt : Reg),
    GivesHiLo (.mult rs rt) s
      (if s.params.multWritesHi then wordResult (signedWord s rs * signedWord s rt / 2 ^ 32) else s.hi)
      (wordResult (signedWord s rs * signedWord s rt)) ∧
    GivesHiLo (.multu rs rt) s
      (if s.params.multWritesHi then wordResult (unsignedWord s rs * unsignedWord s rt / 2 ^ 32) else s.hi)
      (wordResult (unsignedWord s rs * unsignedWord s rt))

/-- DMULT and DMULTU put the low 64 bits of the exact product in LO and the high 64 in HI; with MULT_WRITES_HI false HI keeps its
value (R162, R163, R171; the spec's decision D17). -/
def Obligations.DoubleMultiplyWritesBothHalves : Prop :=
  ∀ (s : State) (rs rt : Reg),
    GivesHiLo (.dmult rs rt) s
      (if s.params.multWritesHi then doubleResult (signedDouble s rs * signedDouble s rt / 2 ^ 64) else s.hi)
      (doubleResult (signedDouble s rs * signedDouble s rt)) ∧
    GivesHiLo (.dmultu rs rt) s
      (if s.params.multWritesHi then doubleResult (unsignedDouble s rs * unsignedDouble s rt / 2 ^ 64) else s.hi)
      (doubleResult (unsignedDouble s rs * unsignedDouble s rt))

/-- A divide by a divisor that is not zero puts in LO the quotient rounded toward zero and in HI the remainder, which has the sign
of the dividend; the most negative value divided by -1 wraps (R164 to R167, R172, R173; the spec's decisions D5, D18 and D19;
logs 8 and 12). -/
def Obligations.DivideWritesQuotientAndRemainder : Prop :=
  ∀ (s : State) (rs rt : Reg),
    (signedWord s rt ≠ 0 → ∃ q r, IsDivision (signedWord s rs) (signedWord s rt) q r ∧
      GivesHiLo (.div rs rt) s (wordResult r) (wordResult q)) ∧
    (unsignedWord s rt ≠ 0 → ∃ q r, IsDivision (unsignedWord s rs) (unsignedWord s rt) q r ∧
      GivesHiLo (.divu rs rt) s (wordResult r) (wordResult q)) ∧
    (signedDouble s rt ≠ 0 → ∃ q r, IsDivision (signedDouble s rs) (signedDouble s rt) q r ∧
      GivesHiLo (.ddiv rs rt) s (doubleResult r) (doubleResult q)) ∧
    (unsignedDouble s rt ≠ 0 → ∃ q r, IsDivision (unsignedDouble s rs) (unsignedDouble s rt) q r ∧
      GivesHiLo (.ddivu rs rt) s (doubleResult r) (doubleResult q)) ∧
    (signedWord s rs = -2 ^ 31 → signedWord s rt = -1 →
      GivesHiLo (.div rs rt) s 0 0xFFFFFFFF80000000) ∧
    (signedDouble s rs = -2 ^ 63 → signedDouble s rt = -1 →
      GivesHiLo (.ddiv rs rt) s 0 0x8000000000000000)

/-- A divide by zero completes and never traps: LO and HI each take a free value of their own, and nothing else changes but the
pc (R173; the spec's decision D18; the free values are the model's: log 5). -/
def Obligations.DivideByZeroDrawsFreeValues : Prop :=
  ∀ (s : State) (rs rt : Reg) (i : Instr),
    ((i = .div rs rt ∨ i = .divu rs rt) ∧ (s.reg rt).toNat % 2 ^ 32 = 0 ∨
      (i = .ddiv rs rt ∨ i = .ddivu rs rt) ∧ s.reg rt = 0) →
    ∃ t, exec i s = .next t ∧
      WritesHiLo s t (Config.freeValue (s.draws + 1)) (Config.freeValue s.draws) 2

/-- MFHI and MFLO copy HI and LO to a register and leave them, and these are their words (R168, R169). -/
def Obligations.MovesFromHiLoCopy : Prop :=
  ∀ (s : State) (rd : Reg),
    (Gives (.mfhi rd) s rd s.hi ∧ Spells (rFormat 0 0 rd 0 0b010000) (.mfhi rd)) ∧
    (Gives (.mflo rd) s rd s.lo ∧ Spells (rFormat 0 0 rd 0 0b010010) (.mflo rd))

/-! ### Branches and jumps (spec/45_branch_jump.md) -/

/-- The six branches go to the PC-relative target when their condition holds and to the next instruction when it does not; no
delay slot, nothing else changes (R180, R182 to R187, R192; the spec's decisions D10 and D11; log 9). -/
def Obligations.BranchesGoToTargetOrNext : Prop :=
  ∀ (s : State) (rs rt : Reg) (offset : Imm16),
    Goes (.b offset) s (branchTo s offset) ∧
    Goes (.beq rs rt offset) s (if s.reg rs = s.reg rt then branchTo s offset else s.pc + 4) ∧
    Goes (.bne rs rt offset) s (if s.reg rs = s.reg rt then s.pc + 4 else branchTo s offset) ∧
    Goes (.beqz rs offset) s (if s.reg rs = 0 then branchTo s offset else s.pc + 4) ∧
    Goes (.bnez rs offset) s (if s.reg rs = 0 then s.pc + 4 else branchTo s offset) ∧
    Goes (.bgez rs offset) s (if (s.reg rs).getLsbD 63 then s.pc + 4 else branchTo s offset)

/-- J and JAL go to the target in the 256 MB region of the next instruction, JAL with the link in `x[31]`; JR and JALR go to the
old value of `x[rs]`, JALR with the link in `x[rd]`; none of them traps (R181, R188 to R192; the spec's decisions D10, D12, D23
and D24; log 9). -/
def Obligations.JumpsGoToTargetAndLink : Prop :=
  ∀ (s : State) (rd rs : Reg) (index : Index26),
    Goes (.j index) s (regionTo s index) ∧
    (∃ t, exec (.jal index) s = .next t ∧ CallsTo s t 31 (regionTo s index)) ∧
    Goes (.jr rs) s (s.reg rs) ∧
    (∃ t, exec (.jalr rd rs) s = .next t ∧ CallsTo s t rd (s.reg rs))

/-! ### Loads and stores (spec/46_load_store.md) -/

/-- Each load whose access is aligned and inside data memory writes the value of the bytes at its address, each in the place of
the byte order, extended to 64 bits, and changes no byte (R30 to R33, R200 to R207, R212; the spec's decisions D6, D7, D8 and
D26). -/
def Obligations.LoadsReadTheBytesOfMemory : Prop :=
  ∀ (i : Instr) (s : State) (m : MemForm), loadForm i = some m → m.good s →
    ∃ v, Gives i s m.rt v ∧
      (∀ k < m.size, v.extractLsb' (lowestBit s.params.endian m.size k) 8 = s.mem.read ((m.address s).toNat + k)) ∧
      (∀ j, 8 * m.size ≤ j → j < 64 → v.getLsbD j = (m.signed && v.getLsbD (8 * m.size - 1)))

/-- Each store whose access is aligned and inside data memory writes the low bytes of `x[rt]` at its address, each in the place
of the byte order; every other byte, every register, HI and LO keep their values (R30 to R33, R200, R208 to R211; the spec's
decisions D6, D7 and D8). -/
def Obligations.StoresWriteExactlyTheirBytes : Prop :=
  ∀ (i : Instr) (s : State) (m : MemForm), s.Inv → storeForm i = some m → m.good s →
    ∃ t, exec i s = .next t ∧
      (∀ k < m.size, t.mem.read ((m.address s).toNat + k) =
        (s.reg m.rt).extractLsb' (lowestBit s.params.endian m.size k) 8) ∧
      (∀ a, a < (m.address s).toNat ∨ (m.address s).toNat + m.size ≤ a → t.mem.read a = s.mem.read a) ∧
      (∀ q, t.reg q = s.reg q) ∧ t.hi = s.hi ∧ t.lo = s.lo ∧ t.pc = s.pc + 4 ∧ t.status = s.status ∧
      t.params = s.params ∧ t.code = s.code ∧ t.draws = s.draws

/-- A load or store whose access is misaligned or not wholly inside data memory traps with its kind and effective address, a load
to register 0 too, and nothing else changes (R31, R32, R212, R303; the spec's decisions D7, D8 and D29). -/
def Obligations.BadAccessesTrapWithTheirAddress : Prop :=
  ∀ (i : Instr) (s : State) (m : MemForm), ¬ m.good s →
    (loadForm i = some m → exec i s = .next (trappedAt s (.addressError .load (m.address s)))) ∧
    (storeForm i = some m → exec i s = .next (trappedAt s (.addressError .store (m.address s))))

/-- A load of the width just stored, at the same address, gives back the value stored, in either byte order
(R30, R33, R34; the spec's decisions D6 and D22). -/
def Obligations.LoadAfterStoreGivesTheStoredValue : Prop :=
  ∀ (s : State) (i j : Instr) (m l : MemForm), s.Inv → storeForm i = some m → loadForm j = some l → m.good s →
    l.size = m.size → l.base = m.base → l.offset = m.offset →
    ∃ t u, exec i s = .next t ∧ exec j t = .next u ∧
      (l.rt ≠ 0 → u.reg l.rt =
        if l.signed then BitVec.ofInt 64 (Int.bmod (s.reg m.rt).toNat (2 ^ (8 * m.size)))
        else BitVec.ofNat 64 ((s.reg m.rt).toNat % 2 ^ (8 * m.size)))

/-! ### HALT and NOP (spec/47_halt_nop.md) -/

/-- HALT ends the run normally: the run status becomes `halted`, the pc keeps the address of the HALT, and nothing else changes
(R220, R305; the spec's decisions D14 and D28). -/
def Obligations.HaltEndsTheRunWhereItStands : Prop :=
  ∀ s : State, exec .halt s = .next { s with status := .halted }

/-- NOP changes only the pc, and its word is the zero word, which is read as SLL r0, r0, 0 (R221, R63; the spec's decision
D16). -/
def Obligations.NopOnlyAdvancesThePc : Prop :=
  ∀ (s : State) (p : Params), exec .nop s = .next { s with pc := s.pc + 4 } ∧ encode p .nop = 0 ∧
    (p.haltWord ≠ 0 → decode p 0 = some (.sll 0 0 0))
end

