-- ==== Sys2Proof/Laws/Memory.lean ====
section
/-! SUPPORT. The laws of data memory: what a byte reads as after each operation, and that each operation keeps the canonical
form and lists no address but those it writes. -/

namespace Sys2Proof.Machine

/-! ### One byte -/

@[simp] theorem Memory.read_nil (a : Nat) : Memory.read [] a = Memory.unlisted := rfl

/-- An address below every listed one reads as unlisted. -/
theorem Memory.read_below (m : Memory) (a : Nat) (h : ∀ c ∈ m, a < c.1) : m.read a = Memory.unlisted := by
  induction m with
  | nil => rfl
  | cons c m ih =>
    obtain ⟨k, b⟩ := c
    have hk : a < k := h (k, b) (by simp)
    simp [Memory.read, Nat.ne_of_lt hk, ih (fun c hc => h c (by simp [hc]))]

/-- A write lists no address but its own and those listed before. -/
theorem Memory.write_addresses (m : Memory) (a : Nat) (b : Byte) :
    ∀ c ∈ m.write a b, c.1 = a ∨ ∃ d ∈ m, d.1 = c.1 := by
  induction m with
  | nil => intro c hc; simp only [Memory.write] at hc; split at hc <;> simp_all
  | cons d m ih =>
    obtain ⟨k, e⟩ := d
    intro c hc
    simp only [Memory.write] at hc
    split at hc
    · split at hc
      · exact .inr ⟨c, hc, rfl⟩
      · rcases List.mem_cons.1 hc with rfl | h
        · exact .inl rfl
        · exact .inr ⟨c, h, rfl⟩
    · split at hc
      · split at hc
        · exact .inr ⟨c, by simp [hc], rfl⟩
        · rcases List.mem_cons.1 hc with rfl | h
          · exact .inl rfl
          · exact .inr ⟨c, by simp [h], rfl⟩
      · rcases List.mem_cons.1 hc with rfl | h
        · exact .inr ⟨(k, e), by simp, rfl⟩
        · rcases ih c h with h | ⟨d, hd, hd'⟩
          · exact .inl h
          · exact .inr ⟨d, by simp [hd], hd'⟩

/-- A write keeps the canonical form. -/
theorem Memory.write_wf (m : Memory) (a : Nat) (b : Byte) (h : Memory.wf m) : Memory.wf (m.write a b) := by
  induction m with
  | nil => simp only [Memory.write]; split <;> simp_all [Memory.wf]
  | cons d m ih =>
    obtain ⟨k, e⟩ := d
    obtain ⟨hs, hv⟩ := h
    have hs' := List.pairwise_cons.1 hs
    have hm : Memory.wf m := ⟨hs'.2, fun c hc => hv c (by simp [hc])⟩
    simp only [Memory.write]
    split
    · rename_i hlt
      split
      · exact ⟨hs, hv⟩
      · rename_i hb
        refine ⟨List.pairwise_cons.2 ⟨?_, hs⟩, ?_⟩
        · intro c hc
          rcases List.mem_cons.1 hc with rfl | hc
          · exact hlt
          · exact Nat.lt_trans hlt (hs'.1 c hc)
        · intro c hc
          rcases List.mem_cons.1 hc with rfl | hc
          · exact hb
          · exact hv c hc
    · split
      · rename_i ha
        split
        · exact hm
        · rename_i hb
          refine ⟨List.pairwise_cons.2 ⟨fun c hc => ha ▸ hs'.1 c hc, hs'.2⟩, ?_⟩
          intro c hc
          rcases List.mem_cons.1 hc with rfl | hc
          · exact hb
          · exact hv c (by simp [hc])
      · obtain ⟨hs2, hv2⟩ := ih hm
        refine ⟨List.pairwise_cons.2 ⟨?_, hs2⟩, ?_⟩
        · intro c hc
          rcases Memory.write_addresses m a b c hc with h | ⟨d, hd, hd'⟩
          · show k < c.1
            omega
          · exact hd' ▸ hs'.1 d hd
        · intro c hc
          rcases List.mem_cons.1 hc with rfl | hc
          · exact hv _ (by simp)
          · exact hv2 c hc

/-- What a byte reads as after a write of a byte, in a memory in canonical form. -/
theorem Memory.read_write (m : Memory) (a x : Nat) (b : Byte) (h : Memory.wf m) :
    (m.write a b).read x = if x = a then b else m.read x := by
  induction m with
  | nil => simp only [Memory.write]; split <;> simp_all [Memory.read]
  | cons d m ih =>
    obtain ⟨k, e⟩ := d
    obtain ⟨hs, hv⟩ := h
    have hs' := List.pairwise_cons.1 hs
    have hm : Memory.wf m := ⟨hs'.2, fun c hc => hv c (by simp [hc])⟩
    simp only [Memory.write]
    split
    · rename_i hlt
      split
      · rename_i hb
        split
        · rename_i hx
          subst hx
          rw [hb]
          apply Memory.read_below
          intro c hc
          rcases List.mem_cons.1 hc with rfl | hc
          · exact hlt
          · exact Nat.lt_trans hlt (hs'.1 c hc)
        · rfl
      · simp [Memory.read]
    · split
      · rename_i ha
        subst ha
        split
        · rename_i hb
          split
          · rename_i hx
            subst hx
            rw [hb]
            exact Memory.read_below m x hs'.1
          · rename_i hx
            simp [Memory.read, hx]
        · by_cases hx : x = a <;> simp [Memory.read, hx]
      · rename_i ha
        simp only [Memory.read]
        rw [ih hm]
        by_cases hx : x = k
        · subst hx
          have : ¬ x = a := fun e => ha e.symm
          simp [this]
        · simp [hx]

/-! ### A value of several bytes -/

/-- What one byte reads as after the bytes `k < n` at `a` become `f k`, in order, together with the canonical form. -/
theorem Memory.foldl_write_spec (m : Memory) (a : Nat) (f : Nat → Byte) (n : Nat) (h : Memory.wf m) :
    Memory.wf ((List.range n).foldl (fun m k => m.write (a + k) (f k)) m) ∧
    (∀ x, ((List.range n).foldl (fun m k => m.write (a + k) (f k)) m).read x =
      if a ≤ x ∧ x < a + n then f (x - a) else m.read x) ∧
    (∀ c ∈ (List.range n).foldl (fun m k => m.write (a + k) (f k)) m,
      (a ≤ c.1 ∧ c.1 < a + n) ∨ ∃ d ∈ m, d.1 = c.1) := by
  induction n with
  | zero => exact ⟨h, fun x => by simp, fun c hc => .inr ⟨c, by simpa using hc, rfl⟩⟩
  | succ n ih =>
    obtain ⟨hw, hr, hc⟩ := ih
    simp only [List.range_succ, List.foldl_append, List.foldl_cons, List.foldl_nil]
    refine ⟨Memory.write_wf _ _ _ hw, fun x => ?_, fun c hcm => ?_⟩
    · rw [Memory.read_write _ _ _ _ hw, hr]
      by_cases hx : x = a + n
      · subst hx; simp
      · by_cases hx2 : a ≤ x ∧ x < a + n
        · have : a ≤ x ∧ x < a + (n + 1) := by omega
          simp [hx, hx2, this]
        · have : ¬ (a ≤ x ∧ x < a + (n + 1)) := by omega
          simp [hx, hx2, this]
    · rcases Memory.write_addresses _ _ _ c hcm with h1 | ⟨d, hd, hdc⟩
      · exact .inl (by omega)
      · rcases hc d hd with h2 | ⟨e, he, hec⟩
        · exact .inl (by omega)
        · exact .inr ⟨e, he, hec.trans hdc⟩

/-- A store keeps the canonical form. -/
theorem Memory.storeValue_wf (e : Endian) (m : Memory) (a n : Nat) (v : BitVec (8 * n)) (h : Memory.wf m) :
    Memory.wf (m.storeValue e a n v) :=
  (Memory.foldl_write_spec m a (fun k => v.extractLsb' (laneBit e n k) 8) n h).1

/-- What a byte reads as after a store: its byte of the value inside the access, as before outside (R30, R33). -/
theorem Memory.read_storeValue (e : Endian) (m : Memory) (a n x : Nat) (v : BitVec (8 * n)) (h : Memory.wf m) :
    (m.storeValue e a n v).read x =
      if a ≤ x ∧ x < a + n then v.extractLsb' (laneBit e n (x - a)) 8 else m.read x :=
  (Memory.foldl_write_spec m a (fun k => v.extractLsb' (laneBit e n k) 8) n h).2.1 x

/-- A store lists no address but those of its access and those listed before. -/
theorem Memory.storeValue_addresses (e : Endian) (m : Memory) (a n : Nat) (v : BitVec (8 * n)) (h : Memory.wf m) :
    ∀ c ∈ m.storeValue e a n v, (a ≤ c.1 ∧ c.1 < a + n) ∨ ∃ d ∈ m, d.1 = c.1 :=
  (Memory.foldl_write_spec m a (fun k => v.extractLsb' (laneBit e n k) 8) n h).2.2

/-- A load depends on the bytes of its access alone. -/
theorem Memory.loadValue_congr (e : Endian) (m m' : Memory) (a n : Nat)
    (h : ∀ k < n, m.read (a + k) = m'.read (a + k)) : m.loadValue e a n = m'.loadValue e a n := by
  have key : ∀ l : List Nat, (∀ k ∈ l, k < n) → ∀ v : BitVec (8 * n),
      l.foldl (fun v k => v ||| ((m.read (a + k)).setWidth (8 * n) <<< laneBit e n k)) v =
      l.foldl (fun v k => v ||| ((m'.read (a + k)).setWidth (8 * n) <<< laneBit e n k)) v := by
    intro l
    induction l with
    | nil => intros; rfl
    | cons k l ih =>
      intro hl v
      simp only [List.foldl_cons]
      rw [h k (hl k (by simp))]
      exact ih (fun j hj => hl j (by simp [hj])) _
  exact key _ (fun k hk => List.mem_range.1 hk) _

/-- A bit of an OR of shifted bytes. -/
theorem Memory.foldl_or_bit (w : Nat) (g : Nat → Byte) (lane : Nat → Nat) (l : List Nat) (v : BitVec w) (i : Nat)
    (hi : i < w) :
    (l.foldl (fun v k => v ||| ((g k).setWidth w <<< lane k)) v).getLsbD i =
      (v.getLsbD i || l.any (fun k => decide (lane k ≤ i) && (g k).getLsbD (i - lane k))) := by
  induction l generalizing v with
  | nil => simp
  | cons k l ih =>
    rw [List.foldl_cons, ih, List.any_cons]
    by_cases h : lane k ≤ i
    · have h1 : ¬ i < lane k := by omega
      simp [h, h1, hi, Bool.or_assoc]
    · have h1 : i < lane k := by omega
      simp [h, h1]

/-- The bytes of the value a load gives are the bytes of memory, each in its lane (R30). -/
theorem Memory.loadValue_byte (e : Endian) (m : Memory) (a n k : Nat) (hk : k < n) :
    (m.loadValue e a n).extractLsb' (laneBit e n k) 8 = m.read (a + k) := by
  apply BitVec.eq_of_getLsbD_eq
  intro i hi
  have hlane : laneBit e n k + i < 8 * n := by cases e <;> simp only [laneBit] <;> omega
  rw [BitVec.getLsbD_extractLsb', Memory.loadValue,
    Memory.foldl_or_bit (8 * n) (fun k => m.read (a + k)) (laneBit e n) _ _ _ hlane]
  simp only [hi, decide_true, Bool.true_and, BitVec.ofNat_eq_ofNat, BitVec.getLsbD_zero, Bool.false_or]
  rw [Bool.eq_iff_iff, List.any_eq_true]
  constructor
  · rintro ⟨j, hj, h⟩
    have hj := List.mem_range.1 hj
    simp only [Bool.and_eq_true, decide_eq_true_eq] at h
    have hlt := BitVec.lt_of_getLsbD h.2
    have : j = k := by cases e <;> simp only [laneBit] at h hlt <;> omega
    subst this
    simpa using h.2
  · intro h
    exact ⟨k, List.mem_range.2 hk, by simpa using h⟩

end Sys2Proof.Machine
end

