-- ==== Sys2Proof/Laws/State.lean ====
section
/-! SUPPORT. What each update of the state does to each field, so that no proof unfolds a record update; and the laws of the
general registers. -/

namespace Sys2Proof.Machine

/-! ### `setReg` -/

@[simp] theorem State.setReg_params (s : State) (r : Reg) (v : Word) : (s.setReg r v).params = s.params := rfl
@[simp] theorem State.setReg_code (s : State) (r : Reg) (v : Word) : (s.setReg r v).code = s.code := rfl
@[simp] theorem State.setReg_hi (s : State) (r : Reg) (v : Word) : (s.setReg r v).hi = s.hi := rfl
@[simp] theorem State.setReg_lo (s : State) (r : Reg) (v : Word) : (s.setReg r v).lo = s.lo := rfl
@[simp] theorem State.setReg_pc (s : State) (r : Reg) (v : Word) : (s.setReg r v).pc = s.pc := rfl
@[simp] theorem State.setReg_mem (s : State) (r : Reg) (v : Word) : (s.setReg r v).mem = s.mem := rfl
@[simp] theorem State.setReg_status (s : State) (r : Reg) (v : Word) : (s.setReg r v).status = s.status := rfl
@[simp] theorem State.setReg_draws (s : State) (r : Reg) (v : Word) : (s.setReg r v).draws = s.draws := rfl

/-! ### `setPc` -/

@[simp] theorem State.setPc_params (s : State) (v : Word) : (s.setPc v).params = s.params := rfl
@[simp] theorem State.setPc_code (s : State) (v : Word) : (s.setPc v).code = s.code := rfl
@[simp] theorem State.setPc_regs (s : State) (v : Word) : (s.setPc v).regs = s.regs := rfl
@[simp] theorem State.setPc_hi (s : State) (v : Word) : (s.setPc v).hi = s.hi := rfl
@[simp] theorem State.setPc_lo (s : State) (v : Word) : (s.setPc v).lo = s.lo := rfl
@[simp] theorem State.setPc_pc (s : State) (v : Word) : (s.setPc v).pc = v := rfl
@[simp] theorem State.setPc_mem (s : State) (v : Word) : (s.setPc v).mem = s.mem := rfl
@[simp] theorem State.setPc_status (s : State) (v : Word) : (s.setPc v).status = s.status := rfl
@[simp] theorem State.setPc_draws (s : State) (v : Word) : (s.setPc v).draws = s.draws := rfl
@[simp] theorem State.setPc_reg (s : State) (v : Word) (q : Reg) : (s.setPc v).reg q = s.reg q := rfl

/-! ### `setHi` -/

@[simp] theorem State.setHi_params (s : State) (v : Word) : (s.setHi v).params = s.params := rfl
@[simp] theorem State.setHi_code (s : State) (v : Word) : (s.setHi v).code = s.code := rfl
@[simp] theorem State.setHi_regs (s : State) (v : Word) : (s.setHi v).regs = s.regs := rfl
@[simp] theorem State.setHi_hi (s : State) (v : Word) : (s.setHi v).hi = v := rfl
@[simp] theorem State.setHi_lo (s : State) (v : Word) : (s.setHi v).lo = s.lo := rfl
@[simp] theorem State.setHi_pc (s : State) (v : Word) : (s.setHi v).pc = s.pc := rfl
@[simp] theorem State.setHi_mem (s : State) (v : Word) : (s.setHi v).mem = s.mem := rfl
@[simp] theorem State.setHi_status (s : State) (v : Word) : (s.setHi v).status = s.status := rfl
@[simp] theorem State.setHi_draws (s : State) (v : Word) : (s.setHi v).draws = s.draws := rfl
@[simp] theorem State.setHi_reg (s : State) (v : Word) (q : Reg) : (s.setHi v).reg q = s.reg q := rfl

/-! ### `setLo` -/

@[simp] theorem State.setLo_params (s : State) (v : Word) : (s.setLo v).params = s.params := rfl
@[simp] theorem State.setLo_code (s : State) (v : Word) : (s.setLo v).code = s.code := rfl
@[simp] theorem State.setLo_regs (s : State) (v : Word) : (s.setLo v).regs = s.regs := rfl
@[simp] theorem State.setLo_hi (s : State) (v : Word) : (s.setLo v).hi = s.hi := rfl
@[simp] theorem State.setLo_lo (s : State) (v : Word) : (s.setLo v).lo = v := rfl
@[simp] theorem State.setLo_pc (s : State) (v : Word) : (s.setLo v).pc = s.pc := rfl
@[simp] theorem State.setLo_mem (s : State) (v : Word) : (s.setLo v).mem = s.mem := rfl
@[simp] theorem State.setLo_status (s : State) (v : Word) : (s.setLo v).status = s.status := rfl
@[simp] theorem State.setLo_draws (s : State) (v : Word) : (s.setLo v).draws = s.draws := rfl
@[simp] theorem State.setLo_reg (s : State) (v : Word) (q : Reg) : (s.setLo v).reg q = s.reg q := rfl

/-! ### `setStatus` -/

@[simp] theorem State.setStatus_params (s : State) (v : RunStatus) : (s.setStatus v).params = s.params := rfl
@[simp] theorem State.setStatus_code (s : State) (v : RunStatus) : (s.setStatus v).code = s.code := rfl
@[simp] theorem State.setStatus_regs (s : State) (v : RunStatus) : (s.setStatus v).regs = s.regs := rfl
@[simp] theorem State.setStatus_hi (s : State) (v : RunStatus) : (s.setStatus v).hi = s.hi := rfl
@[simp] theorem State.setStatus_lo (s : State) (v : RunStatus) : (s.setStatus v).lo = s.lo := rfl
@[simp] theorem State.setStatus_pc (s : State) (v : RunStatus) : (s.setStatus v).pc = s.pc := rfl
@[simp] theorem State.setStatus_mem (s : State) (v : RunStatus) : (s.setStatus v).mem = s.mem := rfl
@[simp] theorem State.setStatus_status (s : State) (v : RunStatus) : (s.setStatus v).status = v := rfl
@[simp] theorem State.setStatus_draws (s : State) (v : RunStatus) : (s.setStatus v).draws = s.draws := rfl
@[simp] theorem State.setStatus_reg (s : State) (v : RunStatus) (q : Reg) : (s.setStatus v).reg q = s.reg q := rfl

/-! ### `setMem` -/

@[simp] theorem State.setMem_params (s : State) (v : Memory) : (s.setMem v).params = s.params := rfl
@[simp] theorem State.setMem_code (s : State) (v : Memory) : (s.setMem v).code = s.code := rfl
@[simp] theorem State.setMem_regs (s : State) (v : Memory) : (s.setMem v).regs = s.regs := rfl
@[simp] theorem State.setMem_hi (s : State) (v : Memory) : (s.setMem v).hi = s.hi := rfl
@[simp] theorem State.setMem_lo (s : State) (v : Memory) : (s.setMem v).lo = s.lo := rfl
@[simp] theorem State.setMem_pc (s : State) (v : Memory) : (s.setMem v).pc = s.pc := rfl
@[simp] theorem State.setMem_mem (s : State) (v : Memory) : (s.setMem v).mem = v := rfl
@[simp] theorem State.setMem_status (s : State) (v : Memory) : (s.setMem v).status = s.status := rfl
@[simp] theorem State.setMem_draws (s : State) (v : Memory) : (s.setMem v).draws = s.draws := rfl
@[simp] theorem State.setMem_reg (s : State) (v : Memory) (q : Reg) : (s.setMem v).reg q = s.reg q := rfl

/-! ### `drawn` -/

@[simp] theorem State.drawn_params (s : State) (n : Nat) : (s.drawn n).params = s.params := rfl
@[simp] theorem State.drawn_code (s : State) (n : Nat) : (s.drawn n).code = s.code := rfl
@[simp] theorem State.drawn_regs (s : State) (n : Nat) : (s.drawn n).regs = s.regs := rfl
@[simp] theorem State.drawn_hi (s : State) (n : Nat) : (s.drawn n).hi = s.hi := rfl
@[simp] theorem State.drawn_lo (s : State) (n : Nat) : (s.drawn n).lo = s.lo := rfl
@[simp] theorem State.drawn_pc (s : State) (n : Nat) : (s.drawn n).pc = s.pc := rfl
@[simp] theorem State.drawn_mem (s : State) (n : Nat) : (s.drawn n).mem = s.mem := rfl
@[simp] theorem State.drawn_status (s : State) (n : Nat) : (s.drawn n).status = s.status := rfl
@[simp] theorem State.drawn_draws (s : State) (n : Nat) : (s.drawn n).draws = s.draws + n := rfl
@[simp] theorem State.drawn_reg (s : State) (n : Nat) (q : Reg) : (s.drawn n).reg q = s.reg q := rfl

/-! ### `advance` -/

@[simp] theorem State.advance_params (s : State) : (s.advance).params = s.params := rfl
@[simp] theorem State.advance_code (s : State) : (s.advance).code = s.code := rfl
@[simp] theorem State.advance_regs (s : State) : (s.advance).regs = s.regs := rfl
@[simp] theorem State.advance_hi (s : State) : (s.advance).hi = s.hi := rfl
@[simp] theorem State.advance_lo (s : State) : (s.advance).lo = s.lo := rfl
@[simp] theorem State.advance_pc (s : State) : (s.advance).pc = s.pc + 4 := rfl
@[simp] theorem State.advance_mem (s : State) : (s.advance).mem = s.mem := rfl
@[simp] theorem State.advance_status (s : State) : (s.advance).status = s.status := rfl
@[simp] theorem State.advance_draws (s : State) : (s.advance).draws = s.draws := rfl
@[simp] theorem State.advance_reg (s : State) (q : Reg) : (s.advance).reg q = s.reg q := rfl

/-! ### The general registers (R10, R11) -/

/-- Register 0 reads as 0 in every state. -/
@[simp] theorem State.reg_zero (s : State) : s.reg 0 = 0 := rfl

/-- A write to register 0 changes nothing. -/
@[simp] theorem State.setReg_zero (s : State) (v : Word) : s.setReg 0 v = s := rfl

/-- What a register reads as after a write to a register. -/
theorem State.setReg_reg (s : State) (r q : Reg) (v : Word) :
    (s.setReg r v).reg q = if q = r ∧ r ≠ 0 then v else s.reg q := by
  by_cases hr : r = 0
  · subst hr; simp
  · by_cases hq : q = 0
    · subst hq
      have : ¬ (0 : Reg) = r := fun h => hr h.symm
      simp [State.reg, this]
    · by_cases h : q = r
      · subst h; simp [State.reg, State.setReg, hq]
      · have h' : r.val ≠ q.val := fun e => h (Fin.ext e.symm)
        simp [State.reg, State.setReg, hr, hq, h, Vector.getElem_set_ne, h']

/-- The register written, if it is not register 0, reads as the value written. -/
theorem State.setReg_reg_same (s : State) (r : Reg) (v : Word) (h : r ≠ 0) : (s.setReg r v).reg r = v := by
  simp [State.setReg_reg, h]

/-- A write leaves every other register alone. -/
theorem State.setReg_reg_other (s : State) (r q : Reg) (v : Word) (h : q ≠ r) : (s.setReg r v).reg q = s.reg q := by
  simp [State.setReg_reg, h]

/-- A write leaves register 0's place alone. -/
theorem State.setReg_zero_place (s : State) (r : Reg) (v : Word) : (s.setReg r v).regs[0] = s.regs[0] := by
  by_cases hr : r = 0
  · subst hr; rfl
  · have h' : r.val ≠ 0 := fun e => hr (Fin.ext e)
    simp [State.setReg, hr, Vector.getElem_set_ne, h']

end Sys2Proof.Machine
end

