-- ==== Sys2Proof/Laws/Ops.lean ====
section
/-! SUPPORT. What each shared operation can do, said once: the next state it answers, or the cases it answers one in. -/

namespace Sys2Proof.Machine

/-! ### How an instruction ends -/

@[simp] theorem raise_eq (e : Trap) (s : State) : raise e s = .next (s.setStatus (.fault e)) := rfl

@[simp] theorem endRun_eq (s : State) : endRun s = .next (s.setStatus .halted) := rfl

@[simp] theorem complete_eq (s : State) : complete s = .next s.advance := rfl

@[simp] theorem writeBack_eq (r : Reg) (v : Word) (s : State) : writeBack r v s = .next (s.setReg r v).advance := rfl

@[simp] theorem writeHiLo_eq (hi lo : Word) (s : State) :
    writeHiLo hi lo s = .next ((s.setHi hi).setLo lo).advance := rfl

@[simp] theorem branch_eq (taken : Bool) (target : Word) (s : State) :
    branch taken target s = .next (s.setPc (if taken then target else s.pc + 4)) := rfl

@[simp] theorem jump_eq (target : Word) (s : State) : jump target s = .next (s.setPc target) := rfl

@[simp] theorem call_eq (r : Reg) (target : Word) (s : State) :
    call r target s = .next ((s.setReg r (s.pc + 4)).setPc target) := rfl

@[simp] theorem writeProduct_eq (hi lo : Word) (s : State) :
    writeProduct hi lo s = .next ((s.setHi (if s.params.multWritesHi then hi else s.hi)).setLo lo).advance := rfl

@[simp] theorem writeAnyHiLo_eq (s : State) :
    writeAnyHiLo s = .next (((s.drawn 2).setHi (Config.freeValue (s.draws + 1))).setLo
      (Config.freeValue s.draws)).advance := rfl

@[simp] theorem writeOrTrap_some (r : Reg) (v : Word) (s : State) :
    writeOrTrap r (some v) s = .next (s.setReg r v).advance := rfl

@[simp] theorem writeOrTrap_none (r : Reg) (s : State) :
    writeOrTrap r none s = .next (s.setStatus (.fault .integerOverflow)) := rfl

/-- A result that may overflow is written, or the instruction traps and nothing else changes. -/
theorem writeOrTrap_cases (r : Reg) (v : Option Word) (s : State) :
    (∃ w, v = some w ∧ writeOrTrap r v s = .next (s.setReg r w).advance) ∨
    (v = none ∧ writeOrTrap r v s = .next (s.setStatus (.fault .integerOverflow))) := by
  cases v with
  | none => exact .inr ⟨rfl, rfl⟩
  | some w => exact .inl ⟨w, rfl, rfl⟩

/-! ### Exact results (R113) -/

theorem fitsSigned_iff (n : Nat) (t : Int) : fitsSigned n t = true ↔ -2 ^ (n - 1) ≤ t ∧ t ≤ 2 ^ (n - 1) - 1 := by
  simp [fitsSigned]

/-- A word result that fits is the exact integer; one that does not is none. -/
theorem exactWord_cases (t : Int) :
    ((-2 ^ 31 ≤ t ∧ t ≤ 2 ^ 31 - 1) ∧ exactWord t = some (sext32 (BitVec.ofInt 32 t))) ∨
    (¬ (-2 ^ 31 ≤ t ∧ t ≤ 2 ^ 31 - 1) ∧ exactWord t = none) := by
  by_cases h : fitsSigned 32 t = true
  · exact .inl ⟨(fitsSigned_iff 32 t).1 h, by simp [exactWord, h]⟩
  · exact .inr ⟨fun h' => h ((fitsSigned_iff 32 t).2 h'), by simp [exactWord, h]⟩

/-- A doubleword result that fits is the exact integer; one that does not is none. -/
theorem exactDouble_cases (t : Int) :
    ((-2 ^ 63 ≤ t ∧ t ≤ 2 ^ 63 - 1) ∧ exactDouble t = some (BitVec.ofInt 64 t)) ∨
    (¬ (-2 ^ 63 ≤ t ∧ t ≤ 2 ^ 63 - 1) ∧ exactDouble t = none) := by
  by_cases h : fitsSigned 64 t = true
  · exact .inl ⟨(fitsSigned_iff 64 t).1 h, by simp [exactDouble, h]⟩
  · exact .inr ⟨fun h' => h ((fitsSigned_iff 64 t).2 h'), by simp [exactDouble, h]⟩

/-! ### Divides (R172, R173) -/

/-- A word divide writes quotient and remainder, or for a zero divisor draws two free values. -/
theorem wordDivide_cases (a b : Int) (s : State) :
    (b = 0 ∧ wordDivide a b s = writeAnyHiLo s) ∨
    (b ≠ 0 ∧ wordDivide a b s =
      writeHiLo (sext32 (BitVec.ofInt 32 (remainder a b))) (sext32 (BitVec.ofInt 32 (quotient a b))) s) := by
  by_cases h : b = 0
  · exact .inl ⟨h, by simp [wordDivide, h]⟩
  · exact .inr ⟨h, by simp [wordDivide, h]⟩

/-- A doubleword divide writes quotient and remainder, or for a zero divisor draws two free values. -/
theorem doubleDivide_cases (a b : Int) (s : State) :
    (b = 0 ∧ doubleDivide a b s = writeAnyHiLo s) ∨
    (b ≠ 0 ∧ doubleDivide a b s =
      writeHiLo (BitVec.ofInt 64 (remainder a b)) (BitVec.ofInt 64 (quotient a b)) s) := by
  by_cases h : b = 0
  · exact .inl ⟨h, by simp [doubleDivide, h]⟩
  · exact .inr ⟨h, by simp [doubleDivide, h]⟩

/-! ### Memory accesses (R31, R32, R200) -/

theorem accessOk_iff (p : Params) (addr : Word) (n : Nat) :
    accessOk p addr n = true ↔ addr.toNat % n = 0 ∧ addr.toNat + n ≤ p.dataMemBytes := by
  simp [accessOk]

/-- A load writes the extended value, or traps and nothing else changes. -/
theorem load_cases (n : Nat) (ext : BitVec (8 * n) → Word) (rt base : Reg) (offset : Imm16) (s : State) :
    (accessOk s.params (s.effAddr base offset) n = true ∧ load n ext rt base offset s =
      .next (s.setReg rt (ext (s.mem.loadValue s.params.endian (s.effAddr base offset).toNat n))).advance) ∨
    (accessOk s.params (s.effAddr base offset) n = false ∧ load n ext rt base offset s =
      .next (s.setStatus (.fault (.addressError .load (s.effAddr base offset))))) := by
  cases h : accessOk s.params (s.effAddr base offset) n with
  | true => exact .inl ⟨rfl, by simp [load, State.memRead, h]⟩
  | false => exact .inr ⟨rfl, by simp [load, State.memRead, h]⟩

/-- A store writes the bytes of the value, or traps and nothing else changes. -/
theorem store_cases (n : Nat) (rt base : Reg) (offset : Imm16) (s : State) :
    (accessOk s.params (s.effAddr base offset) n = true ∧ store n rt base offset s =
      .next (s.setMem (s.mem.storeValue s.params.endian (s.effAddr base offset).toNat n
        ((s.reg rt).setWidth (8 * n)))).advance) ∨
    (accessOk s.params (s.effAddr base offset) n = false ∧ store n rt base offset s =
      .next (s.setStatus (.fault (.addressError .store (s.effAddr base offset))))) := by
  cases h : accessOk s.params (s.effAddr base offset) n with
  | true => exact .inl ⟨rfl, by simp [store, State.memWrite, h]⟩
  | false => exact .inr ⟨rfl, by simp [store, State.memWrite, h]⟩

/-! ### Fetch (R16) -/

/-- When a word is fetched, and which. -/
theorem fetch_eq_some_iff (s : State) (w : Word32) :
    s.fetch = some w ↔ s.pc.toNat % 4 = 0 ∧ s.params.codeBase.toNat ≤ s.pc.toNat ∧
      s.code[(s.pc.toNat - s.params.codeBase.toNat) / 4]? = some w := by
  unfold State.fetch
  split
  · rename_i h; simp [h]
  · rename_i h
    constructor
    · intro h'; cases h'
    · intro h'; exact absurd ⟨h'.1, h'.2.1⟩ h

/-- When the fetch is impossible. -/
theorem fetch_eq_none_iff (s : State) :
    s.fetch = none ↔ s.pc.toNat % 4 ≠ 0 ∨ s.pc.toNat < s.params.codeBase.toNat ∨
      s.code.length ≤ (s.pc.toNat - s.params.codeBase.toNat) / 4 := by
  unfold State.fetch
  split
  · rename_i h
    rw [List.getElem?_eq_none_iff]
    omega
  · rename_i h
    simp only [true_iff]
    omega

end Sys2Proof.Machine
end

