-- ==== Sys2Proof/Laws/Effect.lean ====
section
/-! SUPPORT. What an instruction and a step can do, said once: the nine shapes of a next state. -/

namespace Sys2Proof.Machine

/-- The shapes of the next state of an instruction executed in the state `s`. -/
inductive Effect (s : State) : State → Prop where
  | wroteRegister (r : Reg) (v : Word) : Effect s (s.setReg r v).advance
  | passed : Effect s s.advance
  | wroteHiLo (hi lo : Word) : Effect s ((s.setHi hi).setLo lo).advance
  | drewHiLo (hi lo : Word) : Effect s (((s.drawn 2).setHi hi).setLo lo).advance
  | went (target : Word) : Effect s (s.setPc target)
  | called (r : Reg) (target : Word) : Effect s ((s.setReg r (s.pc + 4)).setPc target)
  | stored (addr : Word) (n : Nat) (v : BitVec (8 * n)) (h : accessOk s.params addr n = true) :
      Effect s (s.setMem (s.mem.storeValue s.params.endian addr.toNat n v)).advance
  | trapped (e : Trap) : Effect s (s.setStatus (.fault e))
  | ended : Effect s (s.setStatus .halted)

/-- The operation answers a next state of one of the nine shapes. -/
def Answers (s : State) (o : Result) : Prop := ∃ t, o = .next t ∧ Effect s t

theorem writeOrTrap_answers (r : Reg) (v : Option Word) (s : State) : Answers s (writeOrTrap r v s) := by
  rcases writeOrTrap_cases r v s with ⟨w, -, h⟩ | ⟨-, h⟩
  · exact ⟨_, h, .wroteRegister r w⟩
  · exact ⟨_, h, .trapped _⟩

theorem wordDivide_answers (a b : Int) (s : State) : Answers s (wordDivide a b s) := by
  rcases wordDivide_cases a b s with ⟨-, h⟩ | ⟨-, h⟩
  · exact ⟨_, h, .drewHiLo _ _⟩
  · exact ⟨_, h, .wroteHiLo _ _⟩

theorem doubleDivide_answers (a b : Int) (s : State) : Answers s (doubleDivide a b s) := by
  rcases doubleDivide_cases a b s with ⟨-, h⟩ | ⟨-, h⟩
  · exact ⟨_, h, .drewHiLo _ _⟩
  · exact ⟨_, h, .wroteHiLo _ _⟩

theorem load_answers (n : Nat) (ext : BitVec (8 * n) → Word) (rt base : Reg) (offset : Imm16) (s : State) :
    Answers s (load n ext rt base offset s) := by
  rcases load_cases n ext rt base offset s with ⟨-, h⟩ | ⟨-, h⟩
  · exact ⟨_, h, .wroteRegister _ _⟩
  · exact ⟨_, h, .trapped _⟩

theorem store_answers (n : Nat) (rt base : Reg) (offset : Imm16) (s : State) :
    Answers s (store n rt base offset s) := by
  rcases store_cases n rt base offset s with ⟨ha, h⟩ | ⟨-, h⟩
  · exact ⟨_, h, .stored _ _ _ ha⟩
  · exact ⟨_, h, .trapped _⟩

theorem movn_answers (rd rs rt : Reg) (s : State) : Answers s (execMovn rd rs rt s) := by
  unfold execMovn
  split
  · exact ⟨_, rfl, .wroteRegister _ _⟩
  · exact ⟨_, rfl, .passed⟩

theorem movz_answers (rd rs rt : Reg) (s : State) : Answers s (execMovz rd rs rt s) := by
  unfold execMovz
  split
  · exact ⟨_, rfl, .wroteRegister _ _⟩
  · exact ⟨_, rfl, .passed⟩

/-- Every instruction answers a next state, of one of the nine shapes. -/
theorem exec_answers (i : Instr) (s : State) : Answers s (exec i s) := by
  cases i with
  | add | addi | dadd | daddi | sub | dsub => exact writeOrTrap_answers _ _ s
  | addu | addiu | daddu | daddiu | subu | dsubu => exact ⟨_, rfl, .wroteRegister _ _⟩
  | and | andi | or | ori | xor | xori | lui => exact ⟨_, rfl, .wroteRegister _ _⟩
  | sll | sllv | srl | srlv | sra | srav => exact ⟨_, rfl, .wroteRegister _ _⟩
  | dsll | dsllv | dsrl | dsrlv | dsra | dsrav => exact ⟨_, rfl, .wroteRegister _ _⟩
  | slt | slti | sltiu | sltu => exact ⟨_, rfl, .wroteRegister _ _⟩
  | movn rd rs rt => exact movn_answers rd rs rt s
  | movz rd rs rt => exact movz_answers rd rs rt s
  | mult | multu | dmult | dmultu => exact ⟨_, rfl, .wroteHiLo _ _⟩
  | div | divu => exact wordDivide_answers _ _ s
  | ddiv | ddivu => exact doubleDivide_answers _ _ s
  | mfhi | mflo => exact ⟨_, rfl, .wroteRegister _ _⟩
  | b | beq | beqz | bgez | bne | bnez | j | jr => exact ⟨_, rfl, .went _⟩
  | jal | jalr => exact ⟨_, rfl, .called _ _⟩
  | lb | lbu | ld | lh | lhu | lw | lwu => exact load_answers _ _ _ _ _ s
  | sw | sb | sd | sh => exact store_answers _ _ _ _ s
  | halt => exact ⟨_, rfl, .ended⟩
  | nop => exact ⟨_, rfl, .passed⟩

/-- What an instruction's next state can be. -/
theorem exec_effect (i : Instr) (s t : State) (h : exec i s = .next t) : Effect s t := by
  obtain ⟨u, hu, he⟩ := exec_answers i s
  rw [hu] at h
  cases h
  exact he

/-- A running machine traps at the fetch, traps at a reserved word, or executes the decoded instruction (R405, R306). -/
theorem cycle_cases (s : State) :
    (s.fetch = none ∧ cycle s = .next (s.setStatus (.fault (.addressError .fetch s.pc)))) ∨
    (∃ w, s.fetch = some w ∧ decode s.params w = none ∧
      cycle s = .next (s.setStatus (.fault (.reservedInstruction w)))) ∨
    (∃ w i, s.fetch = some w ∧ decode s.params w = some i ∧ cycle s = exec i s) := by
  unfold cycle
  cases hf : s.fetch with
  | none => exact .inl ⟨rfl, rfl⟩
  | some w =>
    cases hd : decode s.params w with
    | none => exact .inr (.inl ⟨w, rfl, hd, by simp [hd]⟩)
    | some i => exact .inr (.inr ⟨w, i, rfl, hd, by simp [hd]⟩)

@[simp] theorem step_running (s : State) (h : s.status = .running) : step s = cycle s := by simp [step, h]

/-- What a step's next state can be: only a running state has one. -/
theorem step_effect (s t : State) (h : step s = .next t) : s.status = .running ∧ Effect s t := by
  cases hs : s.status with
  | halted => simp [step, hs] at h
  | fault e => simp [step, hs] at h
  | running =>
    rw [step_running s hs] at h
    refine ⟨rfl, ?_⟩
    rcases cycle_cases s with ⟨-, hc⟩ | ⟨w, -, -, hc⟩ | ⟨w, i, -, -, hc⟩
    · rw [hc] at h; cases h; exact .trapped _
    · rw [hc] at h; cases h; exact .trapped _
    · rw [hc] at h; exact exec_effect i s t h

end Sys2Proof.Machine
end

