-- ==== Sys2Proof/Laws/Encoding.lean ====
section
/-! SUPPORT. The fields of the words the encoder writes, and a word from its fields. -/

namespace Sys2Proof

theorem toNat_append_add {n m : Nat} (x : BitVec n) (y : BitVec m) : (x ++ y).toNat = x.toNat * 2 ^ m + y.toNat := by
  rw [BitVec.toNat_append, ← Nat.shiftLeft_add_eq_or_of_lt y.isLt, Nat.shiftLeft_eq]

@[simp] theorem field5_toNat (n : Fin 32) : (field5 n).toNat = n.val := rfl

@[simp] theorem field5_toFin (n : Fin 32) : (field5 n).toFin = n := rfl

theorem field5_of_toFin (x : BitVec 5) : field5 x.toFin = x := rfl

theorem rWord_toNat (rs rt rd sa : Fin 32) (f : BitVec 6) :
    (rWord rs rt rd sa f).toNat = rs.val * 2097152 + rt.val * 65536 + rd.val * 2048 + sa.val * 64 + f.toNat := by
  unfold rWord
  simp only [toNat_append_add, field5_toNat, BitVec.toNat_ofNat]
  omega

theorem iWord_toNat (op : BitVec 6) (rs rt : Fin 32) (imm : Imm16) :
    (iWord op rs rt imm).toNat = op.toNat * 67108864 + rs.val * 2097152 + rt.val * 65536 + imm.toNat := by
  unfold iWord
  simp only [toNat_append_add, field5_toNat]
  omega

theorem jWord_toNat (op : BitVec 6) (index : Index26) : (jWord op index).toNat = op.toNat * 67108864 + index.toNat := by
  unfold jWord
  simp only [toNat_append_add]
  omega

/-! ### Idioms (R64) -/

@[simp] theorem Instr.expand_b (offset : Imm16) : (Instr.b offset).expand = .beq 0 0 offset := rfl
@[simp] theorem Instr.expand_beqz (rs : Reg) (offset : Imm16) : (Instr.beqz rs offset).expand = .beq rs 0 offset := rfl
@[simp] theorem Instr.expand_bnez (rs : Reg) (offset : Imm16) : (Instr.bnez rs offset).expand = .bne rs 0 offset := rfl
@[simp] theorem Instr.expand_nop : Instr.nop.expand = .sll 0 0 0 := rfl

/-- A core instruction is no idiom. -/
theorem Instr.expand_core (i : Instr) (h : i.isCore = true) : i.expand = i := by
  cases i with
  | b | beqz | bnez | nop => cases h
  | _ => rfl

/-! ### Fields as numbers -/

theorem opcodeField_toNat (w : Word32) : (opcodeField w).toNat = w.toNat / 67108864 := by
  have := w.isLt
  simp only [opcodeField, BitVec.extractLsb'_toNat, Nat.shiftRight_eq_div_pow]
  omega

theorem functField_toNat (w : Word32) : (functField w).toNat = w.toNat % 64 := by
  simp [functField, BitVec.extractLsb'_toNat]

theorem immField_toNat (w : Word32) : (immField w).toNat = w.toNat % 65536 := by
  simp [immField, BitVec.extractLsb'_toNat]

theorem indexField_toNat (w : Word32) : (indexField w).toNat = w.toNat % 67108864 := by
  simp [indexField, BitVec.extractLsb'_toNat]

theorem rsField_val (w : Word32) : (rsField w).val = w.toNat / 2097152 % 32 := by
  simp [rsField, Nat.shiftRight_eq_div_pow]

theorem rtField_val (w : Word32) : (rtField w).val = w.toNat / 65536 % 32 := by
  simp [rtField, Nat.shiftRight_eq_div_pow]

theorem rdField_val (w : Word32) : (rdField w).val = w.toNat / 2048 % 32 := by
  simp [rdField, Nat.shiftRight_eq_div_pow]

theorem saField_val (w : Word32) : (saField w).val = w.toNat / 64 % 32 := by
  simp [saField, Nat.shiftRight_eq_div_pow]

/-! ### The fields of an R-format word (R51) -/

section RFormat
variable (rs rt rd sa : Fin 32) (f : BitVec 6)

@[simp] theorem opcodeField_rWord : opcodeField (rWord rs rt rd sa f) = 0 := by
  apply BitVec.eq_of_toNat_eq; rw [opcodeField_toNat, rWord_toNat]; have := f.isLt; simp; omega

@[simp] theorem functField_rWord : functField (rWord rs rt rd sa f) = f := by
  apply BitVec.eq_of_toNat_eq; rw [functField_toNat, rWord_toNat]; have := f.isLt; omega

@[simp] theorem rsField_rWord : rsField (rWord rs rt rd sa f) = rs := by
  apply Fin.ext; rw [rsField_val, rWord_toNat]; have := f.isLt; omega

@[simp] theorem rtField_rWord : rtField (rWord rs rt rd sa f) = rt := by
  apply Fin.ext; rw [rtField_val, rWord_toNat]; have := f.isLt; omega

@[simp] theorem rdField_rWord : rdField (rWord rs rt rd sa f) = rd := by
  apply Fin.ext; rw [rdField_val, rWord_toNat]; have := f.isLt; omega

@[simp] theorem saField_rWord : saField (rWord rs rt rd sa f) = sa := by
  apply Fin.ext; rw [saField_val, rWord_toNat]; have := f.isLt; omega

end RFormat

/-! ### The fields of an I-format word (R52) -/

section IFormat
variable (op : BitVec 6) (rs rt : Fin 32) (imm : Imm16)

@[simp] theorem opcodeField_iWord : opcodeField (iWord op rs rt imm) = op := by
  apply BitVec.eq_of_toNat_eq; rw [opcodeField_toNat, iWord_toNat]; have := imm.isLt; omega

@[simp] theorem rsField_iWord : rsField (iWord op rs rt imm) = rs := by
  apply Fin.ext; rw [rsField_val, iWord_toNat]; have := imm.isLt; omega

@[simp] theorem rtField_iWord : rtField (iWord op rs rt imm) = rt := by
  apply Fin.ext; rw [rtField_val, iWord_toNat]; have := imm.isLt; omega

@[simp] theorem immField_iWord : immField (iWord op rs rt imm) = imm := by
  apply BitVec.eq_of_toNat_eq; rw [immField_toNat, iWord_toNat]; have := imm.isLt; omega

end IFormat

/-! ### The fields of a J-format word (R53) -/

@[simp] theorem opcodeField_jWord (op : BitVec 6) (index : Index26) : opcodeField (jWord op index) = op := by
  apply BitVec.eq_of_toNat_eq; rw [opcodeField_toNat, jWord_toNat]; have := index.isLt; omega

@[simp] theorem indexField_jWord (op : BitVec 6) (index : Index26) : indexField (jWord op index) = index := by
  apply BitVec.eq_of_toNat_eq; rw [indexField_toNat, jWord_toNat]; have := index.isLt; omega

/-! ### Words under the masks of the opcode table (R58) -/

theorem rWord_and (rs rt rd sa : Fin 32) (f : BitVec 6) (a b c d : BitVec 5) (g : BitVec 6) :
    rWord rs rt rd sa f &&& (0b111111#6 ++ a ++ b ++ c ++ d ++ g : Word32) =
      (0#6 ++ (field5 rs &&& a) ++ (field5 rt &&& b) ++ (field5 rd &&& c) ++ (field5 sa &&& d) ++ (f &&& g) : Word32) := by
  refine (BitVec.and_append (w := 26) (v := 6)).trans (congrArg (· ++ (f &&& g)) ?_)
  refine (BitVec.and_append (w := 21) (v := 5)).trans (congrArg (· ++ (field5 sa &&& d)) ?_)
  refine (BitVec.and_append (w := 16) (v := 5)).trans (congrArg (· ++ (field5 rd &&& c)) ?_)
  refine (BitVec.and_append (w := 11) (v := 5)).trans (congrArg (· ++ (field5 rt &&& b)) ?_)
  exact BitVec.and_append (w := 6) (v := 5)

theorem iWord_and (op : BitVec 6) (rs rt : Fin 32) (imm : Imm16) (o : BitVec 6) (a b : BitVec 5) (c : BitVec 16) :
    iWord op rs rt imm &&& (o ++ a ++ b ++ c : Word32) =
      ((op &&& o) ++ (field5 rs &&& a) ++ (field5 rt &&& b) ++ (imm &&& c) : Word32) := by
  refine (BitVec.and_append (w := 16) (v := 16)).trans (congrArg (· ++ (imm &&& c)) ?_)
  refine (BitVec.and_append (w := 11) (v := 5)).trans (congrArg (· ++ (field5 rt &&& b)) ?_)
  exact BitVec.and_append (w := 6) (v := 5)

theorem jWord_and (op : BitVec 6) (index : Index26) (o : BitVec 6) (a : BitVec 26) :
    jWord op index &&& (o ++ a : Word32) = ((op &&& o) ++ (index &&& a) : Word32) := by
  exact BitVec.and_append (w := 6) (v := 26)

theorem and_ones6 (x : BitVec 6) : x &&& 0b111111#6 = x := BitVec.and_allOnes

theorem and_ones5 (x : BitVec 5) : x &&& 0b11111#5 = x := BitVec.and_allOnes

/-- The mask of an R-format row keeps its function code and drops the operands `rs`, `rt` and `rd`. -/
theorem rWord_mask_rs_rt_rd (rs rt rd : Fin 32) (f : BitVec 6) :
    rWord rs rt rd 0 f &&& 0xFC0007FF#32 = rWord 0 0 0 0 f := by
  have h : 0xFC0007FF#32 = (0b111111#6 ++ 0#5 ++ 0#5 ++ 0#5 ++ 0b11111#5 ++ 0b111111#6 : Word32) := by decide
  rw [h, rWord_and]; simp only [BitVec.and_zero, and_ones5, and_ones6]; rfl

theorem rWord_mask_rt_rd_sa (rt rd sa : Fin 32) (f : BitVec 6) :
    rWord 0 rt rd sa f &&& 0xFFE0003F#32 = rWord 0 0 0 0 f := by
  have h : 0xFFE0003F#32 = (0b111111#6 ++ 0b11111#5 ++ 0#5 ++ 0#5 ++ 0#5 ++ 0b111111#6 : Word32) := by decide
  rw [h, rWord_and]; simp only [BitVec.and_zero, and_ones5, and_ones6]; rfl

theorem rWord_mask_rs_rt (rs rt : Fin 32) (f : BitVec 6) :
    rWord rs rt 0 0 f &&& 0xFC00FFFF#32 = rWord 0 0 0 0 f := by
  have h : 0xFC00FFFF#32 = (0b111111#6 ++ 0#5 ++ 0#5 ++ 0b11111#5 ++ 0b11111#5 ++ 0b111111#6 : Word32) := by decide
  rw [h, rWord_and]; simp only [BitVec.and_zero, and_ones5, and_ones6]; rfl

theorem rWord_mask_rd (rd : Fin 32) (f : BitVec 6) :
    rWord 0 0 rd 0 f &&& 0xFFFF07FF#32 = rWord 0 0 0 0 f := by
  have h : 0xFFFF07FF#32 = (0b111111#6 ++ 0b11111#5 ++ 0b11111#5 ++ 0#5 ++ 0b11111#5 ++ 0b111111#6 : Word32) := by decide
  rw [h, rWord_and]; simp only [BitVec.and_zero, and_ones5, and_ones6]; rfl

theorem rWord_mask_rs_rd (rs rd : Fin 32) (f : BitVec 6) :
    rWord rs 0 rd 0 f &&& 0xFC1F07FF#32 = rWord 0 0 0 0 f := by
  have h : 0xFC1F07FF#32 = (0b111111#6 ++ 0#5 ++ 0b11111#5 ++ 0#5 ++ 0b11111#5 ++ 0b111111#6 : Word32) := by decide
  rw [h, rWord_and]; simp only [BitVec.and_zero, and_ones5, and_ones6]; rfl

theorem rWord_mask_rs (rs : Fin 32) (f : BitVec 6) :
    rWord rs 0 0 0 f &&& 0xFC1FFFFF#32 = rWord 0 0 0 0 f := by
  have h : 0xFC1FFFFF#32 = (0b111111#6 ++ 0#5 ++ 0b11111#5 ++ 0b11111#5 ++ 0b11111#5 ++ 0b111111#6 : Word32) := by decide
  rw [h, rWord_and]; simp only [BitVec.and_zero, and_ones5, and_ones6]; rfl

/-- The mask of an I-format row keeps its opcode and drops the operands `rs`, `rt` and the immediate. -/
theorem iWord_mask_rs_rt (op : BitVec 6) (rs rt : Fin 32) (imm : Imm16) :
    iWord op rs rt imm &&& 0xFC000000#32 = iWord op 0 0 0 := by
  have h : 0xFC000000#32 = (0b111111#6 ++ 0#5 ++ 0#5 ++ 0#16 : Word32) := by decide
  rw [h, iWord_and]; simp only [BitVec.and_zero, and_ones6]; rfl

theorem iWord_mask_rt (op : BitVec 6) (rt : Fin 32) (imm : Imm16) :
    iWord op 0 rt imm &&& 0xFFE00000#32 = iWord op 0 0 0 := by
  have h : 0xFFE00000#32 = (0b111111#6 ++ 0b11111#5 ++ 0#5 ++ 0#16 : Word32) := by decide
  rw [h, iWord_and]; simp only [BitVec.and_zero, and_ones5, and_ones6]; rfl

theorem iWord_mask_rs (op : BitVec 6) (rs rt : Fin 32) (imm : Imm16) :
    iWord op rs rt imm &&& 0xFC1F0000#32 = iWord op 0 rt 0 := by
  have h : 0xFC1F0000#32 = (0b111111#6 ++ 0#5 ++ 0b11111#5 ++ 0#16 : Word32) := by decide
  rw [h, iWord_and]; simp only [BitVec.and_zero, and_ones5, and_ones6]; rfl

theorem iWord_mask_imm (op : BitVec 6) (imm : Imm16) :
    iWord op 0 0 imm &&& 0xFFFF0000#32 = iWord op 0 0 0 := by
  have h : 0xFFFF0000#32 = (0b111111#6 ++ 0b11111#5 ++ 0b11111#5 ++ 0#16 : Word32) := by decide
  rw [h, iWord_and]; simp only [BitVec.and_zero, and_ones5, and_ones6]; rfl

/-- The mask of a J-format row keeps its opcode. -/
theorem jWord_mask (op : BitVec 6) (index : Index26) :
    jWord op index &&& 0xFC000000#32 = jWord op 0 := by
  have h : 0xFC000000#32 = (0b111111#6 ++ 0#26 : Word32) := by decide
  rw [h, jWord_and]; simp only [BitVec.and_zero, and_ones6]; rfl

/-! ### A word from its fields -/

/-- A word of major opcode 000000 is the R-format word of its fields. -/
theorem rWord_of_fields (w : Word32) (h : opcodeField w = 0) :
    rWord (rsField w) (rtField w) (rdField w) (saField w) (functField w) = w := by
  have h' := congrArg BitVec.toNat h
  rw [opcodeField_toNat] at h'
  apply BitVec.eq_of_toNat_eq
  rw [rWord_toNat, rsField_val, rtField_val, rdField_val, saField_val, functField_toNat]
  simp at h'
  omega

/-- Every word is the I-format word of its fields. -/
theorem iWord_of_fields (w : Word32) : iWord (opcodeField w) (rsField w) (rtField w) (immField w) = w := by
  apply BitVec.eq_of_toNat_eq
  rw [iWord_toNat, opcodeField_toNat, rsField_val, rtField_val, immField_toNat]
  omega

/-- Every word is the J-format word of its fields. -/
theorem jWord_of_fields (w : Word32) : jWord (opcodeField w) (indexField w) = w := by
  apply BitVec.eq_of_toNat_eq
  rw [jWord_toNat, opcodeField_toNat, indexField_toNat]
  omega

/-! ### Unused fields (R60, U2) -/

@[simp] theorem unused_nil (strict : Bool) (i : Instr) : unused strict [] i = some i := by simp [unused]

/-- Fields that are zero refuse nothing. -/
@[simp] theorem unused_zero (strict : Bool) (fields : List (Fin 32)) (i : Instr) :
    unused strict (0 :: fields) i = unused strict fields i := by simp [unused]

/-- Under strict decode an instruction is read only from a word whose unused fields are zero. -/
theorem unused_eq_some (fields : List (Fin 32)) (i j : Instr) (h : unused true fields i = some j) :
    i = j ∧ ∀ f ∈ fields, f = 0 := by
  unfold unused at h
  split at h
  · cases h
  · rename_i hf
    refine ⟨by simpa using h, ?_⟩
    simpa using hf

/-- With `STRICT_DECODE = false` unused fields refuse nothing. -/
@[simp] theorem unused_loose (fields : List (Fin 32)) (i : Instr) : unused false fields i = some i := by simp [unused]

end Sys2Proof
end

