-- ==== Sys2Proof/Laws/Launch.lean ====
section
/-! SUPPORT. The laws of the start of a run: what an image written over memory and values written to registers leave, and what
the places hold that the host does not supply. -/

namespace Sys2Proof.Machine

/-- What an image written over memory leaves: the canonical form, at each address the image's last byte for it or else the byte
before, and no address listed but those of the image and those listed before. -/
theorem Memory.writeAll_spec (m : Memory) (image : List Host.Cell) (h : Memory.wf m) :
    Memory.wf (m.writeAll image) ∧
    (∀ a, (m.writeAll image).read a = ((image.reverse.find? (fun c => c.1 == a)).map (·.2)).getD (m.read a)) ∧
    (∀ c ∈ m.writeAll image, (∃ d ∈ m, d.1 = c.1) ∨ ∃ d ∈ image, d.1 = c.1) := by
  induction image generalizing m with
  | nil => exact ⟨h, fun _ => rfl, fun c hc => .inl ⟨c, hc, rfl⟩⟩
  | cons c image ih =>
    obtain ⟨hw, hr, hl⟩ := ih (m.write c.1 c.2) (Memory.write_wf m c.1 c.2 h)
    refine ⟨hw, fun a => ?_, fun x hx => ?_⟩
    · refine (hr a).trans ?_
      rw [Memory.read_write _ _ _ _ h, List.reverse_cons, List.find?_append]
      cases image.reverse.find? (fun c => c.1 == a) with
      | some d => simp
      | none =>
        by_cases ha : a = c.1
        · subst ha; simp
        · simp [ha, List.find?, show (c.1 == a) = false by simpa using fun e => ha e.symm]
    · rcases hl x hx with ⟨d, hd, hdx⟩ | ⟨d, hd, hdx⟩
      · rcases Memory.write_addresses _ _ _ d hd with hdc | ⟨e, he, hed⟩
        · exact .inr ⟨c, by simp, hdc.symm.trans hdx⟩
        · exact .inl ⟨e, he, hed.trans hdx⟩
      · exact .inr ⟨d, by simp [hd], hdx⟩

/-- Values written to registers change the registers alone. -/
theorem State.setRegs_frame (s : State) (vs : List (Reg × Word)) :
    s.setRegs vs = { s with regs := (s.setRegs vs).regs } := by
  induction vs generalizing s with
  | nil => rfl
  | cons e vs ih => exact ih (s.setReg e.1 e.2)

/-- Each register but register 0 reads as the last value written to it, or else as before, and register 0's place keeps its
value. -/
theorem State.setRegs_reg (s : State) (vs : List (Reg × Word)) :
    (s.setRegs vs).regs[0] = s.regs[0] ∧
    ∀ r, r ≠ 0 → (s.setRegs vs).reg r = ((vs.reverse.find? (fun e => e.1 == r)).map (·.2)).getD (s.reg r) := by
  induction vs generalizing s with
  | nil => exact ⟨rfl, fun _ _ => rfl⟩
  | cons e vs ih =>
    obtain ⟨h0, hr⟩ := ih (s.setReg e.1 e.2)
    refine ⟨h0.trans (State.setReg_zero_place _ _ _), fun r hne => (hr r hne).trans ?_⟩
    rw [State.setReg_reg, List.reverse_cons, List.find?_append]
    cases vs.reverse.find? (fun e => e.1 == r) with
    | some d => simp
    | none =>
      by_cases he : r = e.1
      · subst he; simp [hne]
      · simp [he, List.find?, show (e.1 == r) = false by simpa using fun h => he h.symm]

/-- With `RESET_REGS = zero` what the host does not supply is 0 (R24). -/
theorem LaunchState.unsupplied_zero (l : LaunchState) (k : Nat) (h : l.params.resetRegs = .zero) : l.unsupplied k = 0 := by
  simp [LaunchState.unsupplied, h]

/-- With `RESET_REGS = unspecified` it is a free value of its own (R24). -/
theorem LaunchState.unsupplied_unspecified (l : LaunchState) (k : Nat) (h : l.params.resetRegs = .unspecified) :
    l.unsupplied k = Config.freeValue (l.firstDraw + k) := by
  simp [LaunchState.unsupplied, h]

/-- A register before the host's values. -/
theorem LaunchState.startRegs_get (l : LaunchState) (r : Reg) :
    l.startRegs[r] = if r = 0 then 0 else l.unsupplied r.val := by
  simp [LaunchState.startRegs]

/-- Data memory before the host's image: in canonical form, the byte of every address the low byte of its place, and nothing
listed outside. -/
theorem LaunchState.startMem_spec (l : LaunchState) :
    Memory.wf l.startMem ∧
    (∀ a < l.params.dataMemBytes, l.startMem.read a = (l.unsupplied (34 + a)).extractLsb' 0 8) ∧
    (∀ c ∈ l.startMem, c.1 < l.params.dataMemBytes) := by
  cases h : l.params.resetRegs with
  | zero =>
    simp only [LaunchState.startMem, h]
    refine ⟨by decide, fun a _ => ?_, by simp⟩
    rw [l.unsupplied_zero _ h]; rfl
  | unspecified =>
    simp only [LaunchState.startMem, h]
    obtain ⟨hw, hr, hl⟩ := Memory.writeAll_spec []
      ((List.range l.params.dataMemBytes).map (fun a => (a, (l.unsupplied (34 + a)).extractLsb' 0 8))) (by decide)
    refine ⟨hw, fun a ha => ?_, fun c hc => ?_⟩
    · rw [hr a]
      cases hf : (((List.range l.params.dataMemBytes).map
          (fun a => (a, (l.unsupplied (34 + a)).extractLsb' 0 8))).reverse.find? (fun c => c.1 == a)) with
      | some d =>
        have hd := List.mem_of_find?_eq_some hf
        have hda : d.1 = a := by simpa using List.find?_some hf
        obtain ⟨k, _, rfl⟩ := List.mem_map.1 (List.mem_reverse.1 hd)
        obtain rfl : k = a := hda
        rfl
      | none =>
        have hn := List.find?_eq_none.1 hf (a, (l.unsupplied (34 + a)).extractLsb' 0 8)
          (List.mem_reverse.2 (List.mem_map.2 ⟨a, List.mem_range.2 ha, rfl⟩))
        simp at hn
    · rcases hl c hc with ⟨d, hd, _⟩ | ⟨d, hd, hdc⟩
      · simp at hd
      · obtain ⟨a, ha, rfl⟩ := List.mem_map.1 hd
        exact hdc ▸ List.mem_range.1 ha

end Sys2Proof.Machine
end

