-- ==== Sys2Proof/Laws/PerInstr.lean ====
section
/-! SUPPORT. The family Spelling, one lemma per instruction: the word the encoder writes is one that the opcode table's row of the
instruction's mnemonic spells (spec/30_encoding.md R58). -/

open Sys2Proof

/-- The encoded word of `i` is spelled by a row of the opcode table whose mnemonic is that of `i`. -/
def Sys2Proof.Laws.Spelling.Statement (i : Instr) : Prop :=
  ∃ r ∈ opcodeTable, (r.mnemonic, i.line.mnemonic) ∈ mnemonicNames ∧ r.spells (encode Machine.defaultParams i) = true

theorem Sys2Proof.Laws.Spelling.of_row (r : OpcodeRow) (m : Mnemonic) (i : Instr) (hr : r ∈ opcodeTable)
    (hm : (r.mnemonic, m) ∈ mnemonicNames) (hi : i.line.mnemonic = m)
    (hw : encode Machine.defaultParams i &&& r.mask = r.bits) : Statement i :=
  ⟨r, hr, hi ▸ hm, by simp [OpcodeRow.spells, hw]⟩

theorem Sys2Proof.Laws.Spelling.add (rd rs rt : Reg) : Statement (.add rd rs rt) :=
  of_row ⟨"ADD", 0x00000020, 0xFC0007FF, false⟩ .add _ (by decide) (by decide) rfl ((rWord_mask_rs_rt_rd _ _ _ _).trans (by decide))

theorem Sys2Proof.Laws.Spelling.addi (rt rs : Reg) (imm : Imm16) : Statement (.addi rt rs imm) :=
  of_row ⟨"ADDI", 0x20000000, 0xFC000000, false⟩ .addi _ (by decide) (by decide) rfl ((iWord_mask_rs_rt _ _ _ _).trans (by decide))

theorem Sys2Proof.Laws.Spelling.addu (rd rs rt : Reg) : Statement (.addu rd rs rt) :=
  of_row ⟨"ADDU", 0x00000021, 0xFC0007FF, false⟩ .addu _ (by decide) (by decide) rfl ((rWord_mask_rs_rt_rd _ _ _ _).trans (by decide))

theorem Sys2Proof.Laws.Spelling.addiu (rt rs : Reg) (imm : Imm16) : Statement (.addiu rt rs imm) :=
  of_row ⟨"ADDIU", 0x24000000, 0xFC000000, false⟩ .addiu _ (by decide) (by decide) rfl ((iWord_mask_rs_rt _ _ _ _).trans (by decide))

theorem Sys2Proof.Laws.Spelling.dadd (rd rs rt : Reg) : Statement (.dadd rd rs rt) :=
  of_row ⟨"DADD", 0x0000002C, 0xFC0007FF, false⟩ .dadd _ (by decide) (by decide) rfl ((rWord_mask_rs_rt_rd _ _ _ _).trans (by decide))

theorem Sys2Proof.Laws.Spelling.daddi (rt rs : Reg) (imm : Imm16) : Statement (.daddi rt rs imm) :=
  of_row ⟨"DADDI", 0x60000000, 0xFC000000, false⟩ .daddi _ (by decide) (by decide) rfl ((iWord_mask_rs_rt _ _ _ _).trans (by decide))

theorem Sys2Proof.Laws.Spelling.daddu (rd rs rt : Reg) : Statement (.daddu rd rs rt) :=
  of_row ⟨"DADDU", 0x0000002D, 0xFC0007FF, false⟩ .daddu _ (by decide) (by decide) rfl ((rWord_mask_rs_rt_rd _ _ _ _).trans (by decide))

theorem Sys2Proof.Laws.Spelling.daddiu (rt rs : Reg) (imm : Imm16) : Statement (.daddiu rt rs imm) :=
  of_row ⟨"DADDIU", 0x64000000, 0xFC000000, false⟩ .daddiu _ (by decide) (by decide) rfl ((iWord_mask_rs_rt _ _ _ _).trans (by decide))

theorem Sys2Proof.Laws.Spelling.sub (rd rs rt : Reg) : Statement (.sub rd rs rt) :=
  of_row ⟨"SUB", 0x00000022, 0xFC0007FF, false⟩ .sub _ (by decide) (by decide) rfl ((rWord_mask_rs_rt_rd _ _ _ _).trans (by decide))

theorem Sys2Proof.Laws.Spelling.subu (rd rs rt : Reg) : Statement (.subu rd rs rt) :=
  of_row ⟨"SUBU", 0x00000023, 0xFC0007FF, false⟩ .subu _ (by decide) (by decide) rfl ((rWord_mask_rs_rt_rd _ _ _ _).trans (by decide))

theorem Sys2Proof.Laws.Spelling.dsub (rd rs rt : Reg) : Statement (.dsub rd rs rt) :=
  of_row ⟨"DSUB", 0x0000002E, 0xFC0007FF, false⟩ .dsub _ (by decide) (by decide) rfl ((rWord_mask_rs_rt_rd _ _ _ _).trans (by decide))

theorem Sys2Proof.Laws.Spelling.dsubu (rd rs rt : Reg) : Statement (.dsubu rd rs rt) :=
  of_row ⟨"DSUBU", 0x0000002F, 0xFC0007FF, false⟩ .dsubu _ (by decide) (by decide) rfl ((rWord_mask_rs_rt_rd _ _ _ _).trans (by decide))

theorem Sys2Proof.Laws.Spelling.and (rd rs rt : Reg) : Statement (.and rd rs rt) :=
  of_row ⟨"AND", 0x00000024, 0xFC0007FF, false⟩ .and _ (by decide) (by decide) rfl ((rWord_mask_rs_rt_rd _ _ _ _).trans (by decide))

theorem Sys2Proof.Laws.Spelling.andi (rt rs : Reg) (imm : Imm16) : Statement (.andi rt rs imm) :=
  of_row ⟨"ANDI", 0x30000000, 0xFC000000, false⟩ .andi _ (by decide) (by decide) rfl ((iWord_mask_rs_rt _ _ _ _).trans (by decide))

theorem Sys2Proof.Laws.Spelling.or (rd rs rt : Reg) : Statement (.or rd rs rt) :=
  of_row ⟨"OR", 0x00000025, 0xFC0007FF, false⟩ .or _ (by decide) (by decide) rfl ((rWord_mask_rs_rt_rd _ _ _ _).trans (by decide))

theorem Sys2Proof.Laws.Spelling.ori (rt rs : Reg) (imm : Imm16) : Statement (.ori rt rs imm) :=
  of_row ⟨"ORI", 0x34000000, 0xFC000000, false⟩ .ori _ (by decide) (by decide) rfl ((iWord_mask_rs_rt _ _ _ _).trans (by decide))

theorem Sys2Proof.Laws.Spelling.xor (rd rs rt : Reg) : Statement (.xor rd rs rt) :=
  of_row ⟨"XOR", 0x00000026, 0xFC0007FF, false⟩ .xor _ (by decide) (by decide) rfl ((rWord_mask_rs_rt_rd _ _ _ _).trans (by decide))

theorem Sys2Proof.Laws.Spelling.xori (rt rs : Reg) (imm : Imm16) : Statement (.xori rt rs imm) :=
  of_row ⟨"XORI", 0x38000000, 0xFC000000, false⟩ .xori _ (by decide) (by decide) rfl ((iWord_mask_rs_rt _ _ _ _).trans (by decide))

theorem Sys2Proof.Laws.Spelling.lui (rt : Reg) (imm : Imm16) : Statement (.lui rt imm) :=
  of_row ⟨"LUI", 0x3C000000, 0xFFE00000, false⟩ .lui _ (by decide) (by decide) rfl ((iWord_mask_rt _ _ _).trans (by decide))

theorem Sys2Proof.Laws.Spelling.sll (rd rt : Reg) (sa : ShiftAmount) : Statement (.sll rd rt sa) :=
  of_row ⟨"SLL", 0x00000000, 0xFFE0003F, false⟩ .sll _ (by decide) (by decide) rfl ((rWord_mask_rt_rd_sa _ _ _ _).trans (by decide))

theorem Sys2Proof.Laws.Spelling.sllv (rd rt rs : Reg) : Statement (.sllv rd rt rs) :=
  of_row ⟨"SLLV", 0x00000004, 0xFC0007FF, false⟩ .sllv _ (by decide) (by decide) rfl ((rWord_mask_rs_rt_rd _ _ _ _).trans (by decide))

theorem Sys2Proof.Laws.Spelling.srl (rd rt : Reg) (sa : ShiftAmount) : Statement (.srl rd rt sa) :=
  of_row ⟨"SRL", 0x00000002, 0xFFE0003F, false⟩ .srl _ (by decide) (by decide) rfl ((rWord_mask_rt_rd_sa _ _ _ _).trans (by decide))

theorem Sys2Proof.Laws.Spelling.srlv (rd rt rs : Reg) : Statement (.srlv rd rt rs) :=
  of_row ⟨"SRLV", 0x00000006, 0xFC0007FF, false⟩ .srlv _ (by decide) (by decide) rfl ((rWord_mask_rs_rt_rd _ _ _ _).trans (by decide))

theorem Sys2Proof.Laws.Spelling.sra (rd rt : Reg) (sa : ShiftAmount) : Statement (.sra rd rt sa) :=
  of_row ⟨"SRA", 0x00000003, 0xFFE0003F, false⟩ .sra _ (by decide) (by decide) rfl ((rWord_mask_rt_rd_sa _ _ _ _).trans (by decide))

theorem Sys2Proof.Laws.Spelling.srav (rd rt rs : Reg) : Statement (.srav rd rt rs) :=
  of_row ⟨"SRAV", 0x00000007, 0xFC0007FF, false⟩ .srav _ (by decide) (by decide) rfl ((rWord_mask_rs_rt_rd _ _ _ _).trans (by decide))

theorem Sys2Proof.Laws.Spelling.dsll (rd rt : Reg) (sa : ShiftAmount) : Statement (.dsll rd rt sa) :=
  of_row ⟨"DSLL", 0x00000038, 0xFFE0003F, false⟩ .dsll _ (by decide) (by decide) rfl ((rWord_mask_rt_rd_sa _ _ _ _).trans (by decide))

theorem Sys2Proof.Laws.Spelling.dsllv (rd rt rs : Reg) : Statement (.dsllv rd rt rs) :=
  of_row ⟨"DSLLV", 0x00000014, 0xFC0007FF, false⟩ .dsllv _ (by decide) (by decide) rfl ((rWord_mask_rs_rt_rd _ _ _ _).trans (by decide))

theorem Sys2Proof.Laws.Spelling.dsrl (rd rt : Reg) (sa : ShiftAmount) : Statement (.dsrl rd rt sa) :=
  of_row ⟨"DSRL", 0x0000003A, 0xFFE0003F, false⟩ .dsrl _ (by decide) (by decide) rfl ((rWord_mask_rt_rd_sa _ _ _ _).trans (by decide))

theorem Sys2Proof.Laws.Spelling.dsrlv (rd rt rs : Reg) : Statement (.dsrlv rd rt rs) :=
  of_row ⟨"DSRLV", 0x00000016, 0xFC0007FF, false⟩ .dsrlv _ (by decide) (by decide) rfl ((rWord_mask_rs_rt_rd _ _ _ _).trans (by decide))

theorem Sys2Proof.Laws.Spelling.dsra (rd rt : Reg) (sa : ShiftAmount) : Statement (.dsra rd rt sa) :=
  of_row ⟨"DSRA", 0x0000003B, 0xFFE0003F, false⟩ .dsra _ (by decide) (by decide) rfl ((rWord_mask_rt_rd_sa _ _ _ _).trans (by decide))

theorem Sys2Proof.Laws.Spelling.dsrav (rd rt rs : Reg) : Statement (.dsrav rd rt rs) :=
  of_row ⟨"DSRAV", 0x00000017, 0xFC0007FF, false⟩ .dsrav _ (by decide) (by decide) rfl ((rWord_mask_rs_rt_rd _ _ _ _).trans (by decide))

theorem Sys2Proof.Laws.Spelling.slt (rd rs rt : Reg) : Statement (.slt rd rs rt) :=
  of_row ⟨"SLT", 0x0000002A, 0xFC0007FF, false⟩ .slt _ (by decide) (by decide) rfl ((rWord_mask_rs_rt_rd _ _ _ _).trans (by decide))

theorem Sys2Proof.Laws.Spelling.slti (rt rs : Reg) (imm : Imm16) : Statement (.slti rt rs imm) :=
  of_row ⟨"SLTI", 0x28000000, 0xFC000000, false⟩ .slti _ (by decide) (by decide) rfl ((iWord_mask_rs_rt _ _ _ _).trans (by decide))

theorem Sys2Proof.Laws.Spelling.sltiu (rt rs : Reg) (imm : Imm16) : Statement (.sltiu rt rs imm) :=
  of_row ⟨"SLTIU", 0x2C000000, 0xFC000000, false⟩ .sltiu _ (by decide) (by decide) rfl ((iWord_mask_rs_rt _ _ _ _).trans (by decide))

theorem Sys2Proof.Laws.Spelling.sltu (rd rs rt : Reg) : Statement (.sltu rd rs rt) :=
  of_row ⟨"SLTU", 0x0000002B, 0xFC0007FF, false⟩ .sltu _ (by decide) (by decide) rfl ((rWord_mask_rs_rt_rd _ _ _ _).trans (by decide))

theorem Sys2Proof.Laws.Spelling.movn (rd rs rt : Reg) : Statement (.movn rd rs rt) :=
  of_row ⟨"MOVN", 0x0000000B, 0xFC0007FF, false⟩ .movn _ (by decide) (by decide) rfl ((rWord_mask_rs_rt_rd _ _ _ _).trans (by decide))

theorem Sys2Proof.Laws.Spelling.movz (rd rs rt : Reg) : Statement (.movz rd rs rt) :=
  of_row ⟨"MOVZ", 0x0000000A, 0xFC0007FF, false⟩ .movz _ (by decide) (by decide) rfl ((rWord_mask_rs_rt_rd _ _ _ _).trans (by decide))

theorem Sys2Proof.Laws.Spelling.mult (rs rt : Reg) : Statement (.mult rs rt) :=
  of_row ⟨"MULT", 0x00000018, 0xFC00FFFF, false⟩ .mult _ (by decide) (by decide) rfl ((rWord_mask_rs_rt _ _ _).trans (by decide))

theorem Sys2Proof.Laws.Spelling.multu (rs rt : Reg) : Statement (.multu rs rt) :=
  of_row ⟨"MULTU", 0x00000019, 0xFC00FFFF, false⟩ .multu _ (by decide) (by decide) rfl ((rWord_mask_rs_rt _ _ _).trans (by decide))

theorem Sys2Proof.Laws.Spelling.dmult (rs rt : Reg) : Statement (.dmult rs rt) :=
  of_row ⟨"DMULT", 0x0000001C, 0xFC00FFFF, false⟩ .dmult _ (by decide) (by decide) rfl ((rWord_mask_rs_rt _ _ _).trans (by decide))

theorem Sys2Proof.Laws.Spelling.dmultu (rs rt : Reg) : Statement (.dmultu rs rt) :=
  of_row ⟨"DMULTU", 0x0000001D, 0xFC00FFFF, false⟩ .dmultu _ (by decide) (by decide) rfl ((rWord_mask_rs_rt _ _ _).trans (by decide))

theorem Sys2Proof.Laws.Spelling.div (rs rt : Reg) : Statement (.div rs rt) :=
  of_row ⟨"DIV", 0x0000001A, 0xFC00FFFF, false⟩ .div _ (by decide) (by decide) rfl ((rWord_mask_rs_rt _ _ _).trans (by decide))

theorem Sys2Proof.Laws.Spelling.divu (rs rt : Reg) : Statement (.divu rs rt) :=
  of_row ⟨"DIVU", 0x0000001B, 0xFC00FFFF, false⟩ .divu _ (by decide) (by decide) rfl ((rWord_mask_rs_rt _ _ _).trans (by decide))

theorem Sys2Proof.Laws.Spelling.ddiv (rs rt : Reg) : Statement (.ddiv rs rt) :=
  of_row ⟨"DDIV", 0x0000001E, 0xFC00FFFF, false⟩ .ddiv _ (by decide) (by decide) rfl ((rWord_mask_rs_rt _ _ _).trans (by decide))

theorem Sys2Proof.Laws.Spelling.ddivu (rs rt : Reg) : Statement (.ddivu rs rt) :=
  of_row ⟨"DDIVU", 0x0000001F, 0xFC00FFFF, false⟩ .ddivu _ (by decide) (by decide) rfl ((rWord_mask_rs_rt _ _ _).trans (by decide))

theorem Sys2Proof.Laws.Spelling.mfhi (rd : Reg) : Statement (.mfhi rd) :=
  of_row ⟨"MFHI", 0x00000010, 0xFFFF07FF, false⟩ .mfhi _ (by decide) (by decide) rfl ((rWord_mask_rd _ _).trans (by decide))

theorem Sys2Proof.Laws.Spelling.mflo (rd : Reg) : Statement (.mflo rd) :=
  of_row ⟨"MFLO", 0x00000012, 0xFFFF07FF, false⟩ .mflo _ (by decide) (by decide) rfl ((rWord_mask_rd _ _).trans (by decide))

theorem Sys2Proof.Laws.Spelling.b (offset : Imm16) : Statement (.b offset) :=
  of_row ⟨"B", 0x10000000, 0xFFFF0000, true⟩ .b _ (by decide) (by decide) rfl ((iWord_mask_imm _ _).trans (by decide))

theorem Sys2Proof.Laws.Spelling.beq (rs rt : Reg) (offset : Imm16) : Statement (.beq rs rt offset) :=
  of_row ⟨"BEQ", 0x10000000, 0xFC000000, false⟩ .beq _ (by decide) (by decide) rfl ((iWord_mask_rs_rt _ _ _ _).trans (by decide))

theorem Sys2Proof.Laws.Spelling.beqz (rs : Reg) (offset : Imm16) : Statement (.beqz rs offset) :=
  of_row ⟨"BEQZ", 0x10000000, 0xFC1F0000, true⟩ .beqz _ (by decide) (by decide) rfl ((iWord_mask_rs _ _ _ _).trans (by decide))

theorem Sys2Proof.Laws.Spelling.bgez (rs : Reg) (offset : Imm16) : Statement (.bgez rs offset) :=
  of_row ⟨"BGEZ", 0x04010000, 0xFC1F0000, false⟩ .bgez _ (by decide) (by decide) rfl ((iWord_mask_rs _ _ _ _).trans (by decide))

theorem Sys2Proof.Laws.Spelling.bne (rs rt : Reg) (offset : Imm16) : Statement (.bne rs rt offset) :=
  of_row ⟨"BNE", 0x14000000, 0xFC000000, false⟩ .bne _ (by decide) (by decide) rfl ((iWord_mask_rs_rt _ _ _ _).trans (by decide))

theorem Sys2Proof.Laws.Spelling.bnez (rs : Reg) (offset : Imm16) : Statement (.bnez rs offset) :=
  of_row ⟨"BNEZ", 0x14000000, 0xFC1F0000, true⟩ .bnez _ (by decide) (by decide) rfl ((iWord_mask_rs _ _ _ _).trans (by decide))

theorem Sys2Proof.Laws.Spelling.j (index : Index26) : Statement (.j index) :=
  of_row ⟨"J", 0x08000000, 0xFC000000, false⟩ .j _ (by decide) (by decide) rfl ((jWord_mask _ _).trans (by decide))

theorem Sys2Proof.Laws.Spelling.jal (index : Index26) : Statement (.jal index) :=
  of_row ⟨"JAL", 0x0C000000, 0xFC000000, false⟩ .jal _ (by decide) (by decide) rfl ((jWord_mask _ _).trans (by decide))

theorem Sys2Proof.Laws.Spelling.jalr (rd rs : Reg) : Statement (.jalr rd rs) :=
  of_row ⟨"JALR", 0x00000009, 0xFC1F07FF, false⟩ .jalr _ (by decide) (by decide) rfl ((rWord_mask_rs_rd _ _ _).trans (by decide))

theorem Sys2Proof.Laws.Spelling.jr (rs : Reg) : Statement (.jr rs) :=
  of_row ⟨"JR", 0x00000008, 0xFC1FFFFF, false⟩ .jr _ (by decide) (by decide) rfl ((rWord_mask_rs _ _).trans (by decide))

theorem Sys2Proof.Laws.Spelling.lb (rt : Reg) (offset : Imm16) (base : Reg) : Statement (.lb rt offset base) :=
  of_row ⟨"LB", 0x80000000, 0xFC000000, false⟩ .lb _ (by decide) (by decide) rfl ((iWord_mask_rs_rt _ _ _ _).trans (by decide))

theorem Sys2Proof.Laws.Spelling.lbu (rt : Reg) (offset : Imm16) (base : Reg) : Statement (.lbu rt offset base) :=
  of_row ⟨"LBU", 0x90000000, 0xFC000000, false⟩ .lbu _ (by decide) (by decide) rfl ((iWord_mask_rs_rt _ _ _ _).trans (by decide))

theorem Sys2Proof.Laws.Spelling.ld (rt : Reg) (offset : Imm16) (base : Reg) : Statement (.ld rt offset base) :=
  of_row ⟨"LD", 0xDC000000, 0xFC000000, false⟩ .ld _ (by decide) (by decide) rfl ((iWord_mask_rs_rt _ _ _ _).trans (by decide))

theorem Sys2Proof.Laws.Spelling.lh (rt : Reg) (offset : Imm16) (base : Reg) : Statement (.lh rt offset base) :=
  of_row ⟨"LH", 0x84000000, 0xFC000000, false⟩ .lh _ (by decide) (by decide) rfl ((iWord_mask_rs_rt _ _ _ _).trans (by decide))

theorem Sys2Proof.Laws.Spelling.lhu (rt : Reg) (offset : Imm16) (base : Reg) : Statement (.lhu rt offset base) :=
  of_row ⟨"LHU", 0x94000000, 0xFC000000, false⟩ .lhu _ (by decide) (by decide) rfl ((iWord_mask_rs_rt _ _ _ _).trans (by decide))

theorem Sys2Proof.Laws.Spelling.lw (rt : Reg) (offset : Imm16) (base : Reg) : Statement (.lw rt offset base) :=
  of_row ⟨"LW", 0x8C000000, 0xFC000000, false⟩ .lw _ (by decide) (by decide) rfl ((iWord_mask_rs_rt _ _ _ _).trans (by decide))

theorem Sys2Proof.Laws.Spelling.lwu (rt : Reg) (offset : Imm16) (base : Reg) : Statement (.lwu rt offset base) :=
  of_row ⟨"LWU", 0x9C000000, 0xFC000000, false⟩ .lwu _ (by decide) (by decide) rfl ((iWord_mask_rs_rt _ _ _ _).trans (by decide))

theorem Sys2Proof.Laws.Spelling.sw (rt : Reg) (offset : Imm16) (base : Reg) : Statement (.sw rt offset base) :=
  of_row ⟨"SW", 0xAC000000, 0xFC000000, false⟩ .sw _ (by decide) (by decide) rfl ((iWord_mask_rs_rt _ _ _ _).trans (by decide))

theorem Sys2Proof.Laws.Spelling.sb (rt : Reg) (offset : Imm16) (base : Reg) : Statement (.sb rt offset base) :=
  of_row ⟨"SB", 0xA0000000, 0xFC000000, false⟩ .sb _ (by decide) (by decide) rfl ((iWord_mask_rs_rt _ _ _ _).trans (by decide))

theorem Sys2Proof.Laws.Spelling.sd (rt : Reg) (offset : Imm16) (base : Reg) : Statement (.sd rt offset base) :=
  of_row ⟨"SD", 0xFC000000, 0xFC000000, false⟩ .sd _ (by decide) (by decide) rfl ((iWord_mask_rs_rt _ _ _ _).trans (by decide))

theorem Sys2Proof.Laws.Spelling.sh (rt : Reg) (offset : Imm16) (base : Reg) : Statement (.sh rt offset base) :=
  of_row ⟨"SH", 0xA4000000, 0xFC000000, false⟩ .sh _ (by decide) (by decide) rfl ((iWord_mask_rs_rt _ _ _ _).trans (by decide))

theorem Sys2Proof.Laws.Spelling.halt : Statement .halt :=
  of_row ⟨"HALT", 0x04000000, 0xFFFFFFFF, false⟩ .halt _ (by decide) (by decide) rfl (by decide)

theorem Sys2Proof.Laws.Spelling.nop : Statement .nop :=
  of_row ⟨"NOP", 0x00000000, 0xFFFFFFFF, true⟩ .nop _ (by decide) (by decide) rfl (by decide)
end

