-- ==== Sys2Proof/Tests/Slice0.lean ====
section
/-! SUPPORT. Tests. The decode tests are words written out from spec/30_encoding.md R58, field by field; the tests of one
instruction are rows of spec/96_test_vectors_alu.md and spec/97_test_vectors_control_memory.md; each witness shows a state and
operands that meet the hypotheses of the statement it is named after, or of one of its clauses. -/

namespace Sys2Proof.Tests

open Sys2Proof.Machine Sys2Proof.Claims

/-! ### States -/

/-- A running machine at `pc` with these register values and this memory, HI and LO marked, and the default parameters. -/
def start (pc : Word) (regs : List (Reg × Word)) (mem : Memory) : State :=
  ({ State.reset with pc := pc, hi := 0x77, lo := 0x99, mem := mem } : State).setRegs regs

/-- The same, big endian. -/
def startBig (pc : Word) (regs : List (Reg × Word)) (mem : Memory) : State :=
  { start pc regs mem with params := { defaultParams with endian := .big } }

/-- The same, with a program at address 0. -/
def running (code : List Word32) (pc : Word) (regs : List (Reg × Word)) : State := { start pc regs [] with code := code }

/-- The doubleword `0xF1E2D3C4B5A69788` at `0x108`, little endian. -/
def littleDouble : Memory :=
  [(0x108, 0x88), (0x109, 0x97), (0x10A, 0xA6), (0x10B, 0xB5), (0x10C, 0xC4), (0x10D, 0xD3), (0x10E, 0xE2), (0x10F, 0xF1)]

/-- The same doubleword, big endian. -/
def bigDouble : Memory :=
  [(0x108, 0xF1), (0x109, 0xE2), (0x10A, 0xD3), (0x10B, 0xC4), (0x10C, 0xB5), (0x10D, 0xA6), (0x10E, 0x97), (0x10F, 0x88)]

/-- What the instruction leaves, seen through `f`. -/
def after {α : Type} (i : Instr) (s : State) (f : State → α) : Option α :=
  match exec i s with
  | .next t => some (f t)
  | _ => none

/-- What a step leaves, seen through `f`. -/
def afterStep {α : Type} (s : State) (f : State → α) : Option α :=
  match step s with
  | .next t => some (f t)
  | _ => none

/-- Parameters that differ from the defaults in every field. -/
def otherParams : Params := ⟨.big, 64, 0x400, 0x0000003F, false, false, .zero⟩

/-- A host's supply that keeps the rules. -/
def someLaunch : LaunchState :=
  ⟨otherParams, [0x00221820, 0x0000003F], [(3, 7), (63, 9), (3, 8)], [(0, 0), (1, 5), (1, 6)], some 2, none, 3⟩

/-- The same with `RESET_REGS = unspecified`. -/
def someOpenLaunch : LaunchState := { someLaunch with params := { otherParams with resetRegs := .unspecified } }

/-! ### Ill-formed terms are refused (spec/30_encoding.md R67 to R69, spec/00_scope.md R4) -/

theorem test_wellFormed_register : (AsmLine.mk .add [.reg 32, .reg 1, .reg 2]).wellFormed 0 = false := by decide
theorem test_wellFormed_register_kind : (AsmLine.mk .add [.num 3, .reg 1, .reg 2]).wellFormed 0 = false := by decide
theorem test_wellFormed_count : (AsmLine.mk .add [.reg 3, .reg 1]).wellFormed 0 = false := by decide
theorem test_wellFormed_bare : (AsmLine.mk .halt [.reg 1]).wellFormed 0 = false := by decide
theorem test_wellFormed_signed_low : (AsmLine.mk .addi [.reg 2, .reg 1, .num (-32769)]).wellFormed 0 = false := by decide
theorem test_wellFormed_signed_high : (AsmLine.mk .addi [.reg 2, .reg 1, .num 65536]).wellFormed 0 = false := by decide
theorem test_wellFormed_signed_ok : (AsmLine.mk .addi [.reg 2, .reg 1, .num (-32768)]).wellFormed 0 = true := by decide
theorem test_wellFormed_unsigned_low : (AsmLine.mk .ori [.reg 2, .reg 1, .num (-1)]).wellFormed 0 = false := by decide
theorem test_wellFormed_unsigned_high : (AsmLine.mk .lui [.reg 2, .num 65536]).wellFormed 0 = false := by decide
theorem test_wellFormed_shift : (AsmLine.mk .dsll [.reg 3, .reg 2, .num 32]).wellFormed 0 = false := by decide
theorem test_wellFormed_offset : (AsmLine.mk .ld [.reg 2, .mem 65536 1]).wellFormed 0 = false := by decide
theorem test_wellFormed_base : (AsmLine.mk .sd [.reg 2, .mem 8 32]).wellFormed 0 = false := by decide
theorem test_wellFormed_mem_kind : (AsmLine.mk .ld [.reg 2, .reg 1]).wellFormed 0 = false := by decide
theorem test_wellFormed_branch_far : (AsmLine.mk .b [.label 0x20004]).wellFormed 0 = false := by decide
theorem test_wellFormed_branch_near : (AsmLine.mk .b [.label 0x20000]).wellFormed 0 = true := by decide
theorem test_wellFormed_branch_odd : (AsmLine.mk .b [.label 0x102]).wellFormed 0 = false := by decide
theorem test_wellFormed_jump_region : (AsmLine.mk .j [.label 0x10000000]).wellFormed 0 = false := by decide
theorem test_wellFormed_jump_odd : (AsmLine.mk .jal [.label 0x42]).wellFormed 0 = false := by decide
theorem test_wellFormed_jump_field : (AsmLine.mk .j [.num 67108864]).wellFormed 0 = false := by decide
theorem test_wellFormed_link : (AsmLine.mk .jalr [.reg 4, .reg 5, .reg 6]).wellFormed 0 = false := by decide
theorem test_params_memory_size : ({ defaultParams with dataMemBytes := 12 } : Params).wellFormed = false := by decide
theorem test_params_memory_empty : ({ defaultParams with dataMemBytes := 0 } : Params).wellFormed = false := by decide
theorem test_params_codeBase : ({ defaultParams with codeBase := 2 } : Params).wellFormed = false := by decide
theorem test_params_haltWord : ({ defaultParams with haltWord := 0x00221820 } : Params).wellFormed = false := by decide
theorem test_isCore_idiom : Instr.nop.isCore = false ∧ (Instr.b 0).isCore = false := by decide

/-! ### Every row of the table, written out (spec/30_encoding.md R58; the idioms' words are those of R64) -/

theorem test_decode_add : decode defaultParams 0b000000_00001_00010_00011_00000_100000#32 = some (.add 3 1 2) := by decide
theorem test_decode_addi : decode defaultParams 0b001000_00001_00010_1000000000000001#32 = some (.addi 2 1 0x8001) := by decide
theorem test_decode_addu : decode defaultParams 0b000000_00001_00010_00011_00000_100001#32 = some (.addu 3 1 2) := by decide
theorem test_decode_addiu : decode defaultParams 0b001001_00001_00010_1000000000000001#32 = some (.addiu 2 1 0x8001) := by decide
theorem test_decode_and : decode defaultParams 0b000000_00001_00010_00011_00000_100100#32 = some (.and 3 1 2) := by decide
theorem test_decode_andi : decode defaultParams 0b001100_00001_00010_1000000000000001#32 = some (.andi 2 1 0x8001) := by decide
theorem test_decode_b : decode defaultParams 0b000100_00000_00000_1000000000000001#32 = some (.beq 0 0 0x8001) := by decide
theorem test_decode_beq : decode defaultParams 0b000100_00001_00010_1000000000000001#32 = some (.beq 1 2 0x8001) := by decide
theorem test_decode_beqz : decode defaultParams 0b000100_00001_00000_1000000000000001#32 = some (.beq 1 0 0x8001) := by decide
theorem test_decode_bgez : decode defaultParams 0b000001_00001_00001_1000000000000001#32 = some (.bgez 1 0x8001) := by decide
theorem test_decode_bne : decode defaultParams 0b000101_00001_00010_1000000000000001#32 = some (.bne 1 2 0x8001) := by decide
theorem test_decode_bnez : decode defaultParams 0b000101_00001_00000_1000000000000001#32 = some (.bne 1 0 0x8001) := by decide
theorem test_decode_dadd : decode defaultParams 0b000000_00001_00010_00011_00000_101100#32 = some (.dadd 3 1 2) := by decide
theorem test_decode_daddi : decode defaultParams 0b011000_00001_00010_1000000000000001#32 = some (.daddi 2 1 0x8001) := by decide
theorem test_decode_daddu : decode defaultParams 0b000000_00001_00010_00011_00000_101101#32 = some (.daddu 3 1 2) := by decide
theorem test_decode_daddiu : decode defaultParams 0b011001_00001_00010_1000000000000001#32 = some (.daddiu 2 1 0x8001) := by decide
theorem test_decode_ddiv : decode defaultParams 0b000000_00001_00010_00000_00000_011110#32 = some (.ddiv 1 2) := by decide
theorem test_decode_ddivu : decode defaultParams 0b000000_00001_00010_00000_00000_011111#32 = some (.ddivu 1 2) := by decide
theorem test_decode_div : decode defaultParams 0b000000_00001_00010_00000_00000_011010#32 = some (.div 1 2) := by decide
theorem test_decode_divu : decode defaultParams 0b000000_00001_00010_00000_00000_011011#32 = some (.divu 1 2) := by decide
theorem test_decode_dmult : decode defaultParams 0b000000_00001_00010_00000_00000_011100#32 = some (.dmult 1 2) := by decide
theorem test_decode_dmultu : decode defaultParams 0b000000_00001_00010_00000_00000_011101#32 = some (.dmultu 1 2) := by decide
theorem test_decode_dsll : decode defaultParams 0b000000_00000_00010_00011_00100_111000#32 = some (.dsll 3 2 4) := by decide
theorem test_decode_dsllv : decode defaultParams 0b000000_00001_00010_00011_00000_010100#32 = some (.dsllv 3 2 1) := by decide
theorem test_decode_dsra : decode defaultParams 0b000000_00000_00010_00011_00100_111011#32 = some (.dsra 3 2 4) := by decide
theorem test_decode_dsrav : decode defaultParams 0b000000_00001_00010_00011_00000_010111#32 = some (.dsrav 3 2 1) := by decide
theorem test_decode_dsrl : decode defaultParams 0b000000_00000_00010_00011_00100_111010#32 = some (.dsrl 3 2 4) := by decide
theorem test_decode_dsrlv : decode defaultParams 0b000000_00001_00010_00011_00000_010110#32 = some (.dsrlv 3 2 1) := by decide
theorem test_decode_dsub : decode defaultParams 0b000000_00001_00010_00011_00000_101110#32 = some (.dsub 3 1 2) := by decide
theorem test_decode_dsubu : decode defaultParams 0b000000_00001_00010_00011_00000_101111#32 = some (.dsubu 3 1 2) := by decide
theorem test_decode_halt : decode defaultParams 0b000001_00000000000000000000000000#32 = some .halt := by decide
theorem test_decode_j : decode defaultParams 0b000010_10000000000000000000000011#32 = some (.j 0x2000003) := by decide
theorem test_decode_jal : decode defaultParams 0b000011_10000000000000000000000011#32 = some (.jal 0x2000003) := by decide
theorem test_decode_jalr : decode defaultParams 0b000000_00001_00000_00011_00000_001001#32 = some (.jalr 3 1) := by decide
theorem test_decode_jr : decode defaultParams 0b000000_00001_00000_00000_00000_001000#32 = some (.jr 1) := by decide
theorem test_decode_lb : decode defaultParams 0b100000_00001_00010_1000000000000001#32 = some (.lb 2 0x8001 1) := by decide
theorem test_decode_lbu : decode defaultParams 0b100100_00001_00010_1000000000000001#32 = some (.lbu 2 0x8001 1) := by decide
theorem test_decode_ld : decode defaultParams 0b110111_00001_00010_1000000000000001#32 = some (.ld 2 0x8001 1) := by decide
theorem test_decode_lh : decode defaultParams 0b100001_00001_00010_1000000000000001#32 = some (.lh 2 0x8001 1) := by decide
theorem test_decode_lhu : decode defaultParams 0b100101_00001_00010_1000000000000001#32 = some (.lhu 2 0x8001 1) := by decide
theorem test_decode_lui : decode defaultParams 0b001111_00000_00010_1000000000000001#32 = some (.lui 2 0x8001) := by decide
theorem test_decode_lw : decode defaultParams 0b100011_00001_00010_1000000000000001#32 = some (.lw 2 0x8001 1) := by decide
theorem test_decode_lwu : decode defaultParams 0b100111_00001_00010_1000000000000001#32 = some (.lwu 2 0x8001 1) := by decide
theorem test_decode_mfhi : decode defaultParams 0b000000_00000_00000_00011_00000_010000#32 = some (.mfhi 3) := by decide
theorem test_decode_mflo : decode defaultParams 0b000000_00000_00000_00011_00000_010010#32 = some (.mflo 3) := by decide
theorem test_decode_movn : decode defaultParams 0b000000_00001_00010_00011_00000_001011#32 = some (.movn 3 1 2) := by decide
theorem test_decode_movz : decode defaultParams 0b000000_00001_00010_00011_00000_001010#32 = some (.movz 3 1 2) := by decide
theorem test_decode_mult : decode defaultParams 0b000000_00001_00010_00000_00000_011000#32 = some (.mult 1 2) := by decide
theorem test_decode_multu : decode defaultParams 0b000000_00001_00010_00000_00000_011001#32 = some (.multu 1 2) := by decide
theorem test_decode_nop : decode defaultParams 0b000000_00000_00000_00000_00000_000000#32 = some (.sll 0 0 0) := by decide
theorem test_decode_or : decode defaultParams 0b000000_00001_00010_00011_00000_100101#32 = some (.or 3 1 2) := by decide
theorem test_decode_ori : decode defaultParams 0b001101_00001_00010_1000000000000001#32 = some (.ori 2 1 0x8001) := by decide
theorem test_decode_sll : decode defaultParams 0b000000_00000_00010_00011_00100_000000#32 = some (.sll 3 2 4) := by decide
theorem test_decode_sllv : decode defaultParams 0b000000_00001_00010_00011_00000_000100#32 = some (.sllv 3 2 1) := by decide
theorem test_decode_slt : decode defaultParams 0b000000_00001_00010_00011_00000_101010#32 = some (.slt 3 1 2) := by decide
theorem test_decode_slti : decode defaultParams 0b001010_00001_00010_1000000000000001#32 = some (.slti 2 1 0x8001) := by decide
theorem test_decode_sltiu : decode defaultParams 0b001011_00001_00010_1000000000000001#32 = some (.sltiu 2 1 0x8001) := by decide
theorem test_decode_sltu : decode defaultParams 0b000000_00001_00010_00011_00000_101011#32 = some (.sltu 3 1 2) := by decide
theorem test_decode_sra : decode defaultParams 0b000000_00000_00010_00011_00100_000011#32 = some (.sra 3 2 4) := by decide
theorem test_decode_srav : decode defaultParams 0b000000_00001_00010_00011_00000_000111#32 = some (.srav 3 2 1) := by decide
theorem test_decode_srl : decode defaultParams 0b000000_00000_00010_00011_00100_000010#32 = some (.srl 3 2 4) := by decide
theorem test_decode_srlv : decode defaultParams 0b000000_00001_00010_00011_00000_000110#32 = some (.srlv 3 2 1) := by decide
theorem test_decode_sw : decode defaultParams 0b101011_00001_00010_1000000000000001#32 = some (.sw 2 0x8001 1) := by decide
theorem test_decode_sb : decode defaultParams 0b101000_00001_00010_1000000000000001#32 = some (.sb 2 0x8001 1) := by decide
theorem test_decode_sd : decode defaultParams 0b111111_00001_00010_1000000000000001#32 = some (.sd 2 0x8001 1) := by decide
theorem test_decode_sh : decode defaultParams 0b101001_00001_00010_1000000000000001#32 = some (.sh 2 0x8001 1) := by decide
theorem test_decode_sub : decode defaultParams 0b000000_00001_00010_00011_00000_100010#32 = some (.sub 3 1 2) := by decide
theorem test_decode_subu : decode defaultParams 0b000000_00001_00010_00011_00000_100011#32 = some (.subu 3 1 2) := by decide
theorem test_decode_xor : decode defaultParams 0b000000_00001_00010_00011_00000_100110#32 = some (.xor 3 1 2) := by decide
theorem test_decode_xori : decode defaultParams 0b001110_00001_00010_1000000000000001#32 = some (.xori 2 1 0x8001) := by decide

/-! ### Words that spell nothing (R62), and parameters that change what a word spells (R59, R60) -/

theorem test_reserved_funct : decode defaultParams 0b000000_00001_00010_00011_00000_100111#32 = none := by decide
theorem test_reserved_opcode : decode defaultParams 0b010001_00001_00010_0000000000000000#32 = none := by decide
theorem test_reserved_regimm : decode defaultParams 0b000001_00001_00010_0000000000000011#32 = none := by decide
theorem test_unused_field_strict : decode defaultParams 0b000000_00001_00010_00011_00001_100000#32 = none := by decide
theorem test_unused_field_loose :
    decode { defaultParams with strictDecode := false } 0b000000_00001_00010_00011_00001_100000#32 = some (.add 3 1 2) := by decide
theorem test_halt_word_moved : decode otherParams 0x0000003F = some .halt ∧ decode otherParams 0x04000000 = none := by decide

/-! ### The encoder (R55, R58) and the assembler (R66 to R69) -/

theorem test_encode_add : encode defaultParams (.add 3 1 2) = 0x00221820 := by decide
theorem test_encode_ld : encode defaultParams (.ld 2 0xFFF8 1) = 0xDC22FFF8 := by decide
theorem test_encode_idiom : encode defaultParams (.bnez 1 0xFFFD) = 0x1420FFFD := by decide
theorem test_assemble_jalr : assemble 0 ⟨.jalr, [.reg 5]⟩ = some (.jalr 31 5) := by decide
theorem test_assemble_label : assemble 0xC ⟨.bne, [.reg 1, .reg 2, .label 8]⟩ = some (.bne 1 2 0xFFFE) := by decide
theorem test_readLine_comment :
    readLine [] "DADDI  r1, r1, -1   ; counter -= 1, at most".toList = some ⟨.daddi, [.reg 1, .reg 1, .num (-1)]⟩ := by decide
theorem test_readOperand_label : readOperand [("f(x)", 8), ("f(x", 4)] " f(x".toList = some (.label 4) := by decide
theorem test_readLine_only_comment : readLine [] " ; counter".toList = none := by decide
theorem test_readLine : readLine [] "LD r2, -8(r1)".toList = some ⟨.ld, [.reg 2, .mem (-8) 1]⟩ := by decide

/-! ### One step of each instruction (spec/96_test_vectors_alu.md, spec/97_test_vectors_control_memory.md) -/

theorem test_add_1 : after (.add 3 1 2) (start 0x100 [(1, 0x100000001), (2, 0x200000002)] [])
    (fun t => (t.reg 3, t.pc)) = some (0x3, 0x104) := by decide
theorem test_add_2 : after (.add 3 1 2) (start 0x100 [(1, 0xFFFFFFFF80000000), (2, 0xFFFFFFFFFFFFFFFF), (3, 0x55)] [])
    (fun t => (t.status, t.reg 3, t.pc)) = some (.fault .integerOverflow, 0x55, 0x100) := by decide
theorem test_addi_1 : after (.addi 2 1 0x8000) (start 0x100 [(1, 0x7FFFFFFF)] [])
    (fun t => (t.reg 2, t.pc)) = some (0x7FFF7FFF, 0x104) := by decide
theorem test_addi_2 : after (.addi 2 1 1) (start 0x100 [(1, 0x7FFFFFFF), (2, 0x55)] [])
    (fun t => (t.status, t.reg 2, t.pc)) = some (.fault .integerOverflow, 0x55, 0x100) := by decide
theorem test_addu_1 : after (.addu 3 1 2) (start 0x100 [(1, 0x7FFFFFFF), (2, 0x1)] [])
    (fun t => (t.reg 3, t.pc)) = some (0xFFFFFFFF80000000, 0x104) := by decide
theorem test_addu_2 : after (.addu 3 1 2) (start 0x100 [(1, 0xFFFFFFFF), (2, 0x1)] [])
    (fun t => (t.reg 3, t.pc)) = some (0x0, 0x104) := by decide
theorem test_addiu_1 : after (.addiu 2 1 1) (start 0x100 [(1, 0x7FFFFFFF)] [])
    (fun t => (t.reg 2, t.pc)) = some (0xFFFFFFFF80000000, 0x104) := by decide
theorem test_addiu_2 : after (.addiu 2 1 0x8000) (start 0x100 [(1, 0x8000)] [])
    (fun t => (t.reg 2, t.pc)) = some (0x0, 0x104) := by decide
theorem test_dadd_1 : after (.dadd 3 1 2) (start 0x100 [(1, 0x8000000000000000), (2, 0xFFFFFFFFFFFFFFFF), (3, 0x55)] [])
    (fun t => (t.status, t.reg 3, t.pc)) = some (.fault .integerOverflow, 0x55, 0x100) := by decide
theorem test_dadd_2 : after (.dadd 3 1 2) (start 0x100 [(1, 0x8000000000000000), (2, 0x7FFFFFFFFFFFFFFF)] [])
    (fun t => (t.reg 3, t.pc)) = some (0xFFFFFFFFFFFFFFFF, 0x104) := by decide
theorem test_daddi_1 : after (.daddi 2 1 0xFFFF) (start 0x100 [(1, 0x0)] [])
    (fun t => (t.reg 2, t.pc)) = some (0xFFFFFFFFFFFFFFFF, 0x104) := by decide
theorem test_daddi_2 : after (.daddi 2 1 1) (start 0x100 [(1, 0x7FFFFFFFFFFFFFFF), (2, 0x55)] [])
    (fun t => (t.status, t.reg 2, t.pc)) = some (.fault .integerOverflow, 0x55, 0x100) := by decide
theorem test_daddu_1 : after (.daddu 3 1 2) (start 0x100 [(1, 0x7FFFFFFFFFFFFFFF), (2, 0x1)] [])
    (fun t => (t.reg 3, t.pc)) = some (0x8000000000000000, 0x104) := by decide
theorem test_daddu_2 : after (.daddu 3 1 2) (start 0x100 [(1, 0xFFFFFFFFFFFFFFFF), (2, 0x1)] [])
    (fun t => (t.reg 3, t.pc)) = some (0x0, 0x104) := by decide
theorem test_daddiu_1 : after (.daddiu 2 1 0xFFFF) (start 0x100 [(1, 0x8000000000000000)] [])
    (fun t => (t.reg 2, t.pc)) = some (0x7FFFFFFFFFFFFFFF, 0x104) := by decide
theorem test_daddiu_2 : after (.daddiu 2 1 0x7FFF) (start 0x100 [(1, 0x7FFFFFFFFFFFFFFF)] [])
    (fun t => (t.reg 2, t.pc)) = some (0x8000000000007FFE, 0x104) := by decide
theorem test_sub_1 : after (.sub 3 1 2) (start 0x100 [(1, 0x5), (2, 0x7)] [])
    (fun t => (t.reg 3, t.pc)) = some (0xFFFFFFFFFFFFFFFE, 0x104) := by decide
theorem test_sub_2 : after (.sub 3 1 2) (start 0x100 [(1, 0x0), (2, 0xFFFFFFFF80000000), (3, 0x55)] [])
    (fun t => (t.status, t.reg 3, t.pc)) = some (.fault .integerOverflow, 0x55, 0x100) := by decide
theorem test_subu_1 : after (.subu 3 1 2) (start 0x100 [(1, 0xFFFFFFFF80000000), (2, 0x1)] [])
    (fun t => (t.reg 3, t.pc)) = some (0x7FFFFFFF, 0x104) := by decide
theorem test_subu_2 : after (.subu 3 0 2) (start 0x100 [(2, 0xFFFFFFFF80000000)] [])
    (fun t => (t.reg 3, t.pc)) = some (0xFFFFFFFF80000000, 0x104) := by decide
theorem test_dsub_1 : after (.dsub 3 1 2) (start 0x100 [(1, 0x5), (2, 0x7)] [])
    (fun t => (t.reg 3, t.pc)) = some (0xFFFFFFFFFFFFFFFE, 0x104) := by decide
theorem test_dsub_2 : after (.dsub 3 1 2) (start 0x100 [(1, 0x0), (2, 0x8000000000000000), (3, 0x55)] [])
    (fun t => (t.status, t.reg 3, t.pc)) = some (.fault .integerOverflow, 0x55, 0x100) := by decide
theorem test_dsubu_1 : after (.dsubu 3 1 2) (start 0x100 [(1, 0x8000000000000000), (2, 0x1)] [])
    (fun t => (t.reg 3, t.pc)) = some (0x7FFFFFFFFFFFFFFF, 0x104) := by decide
theorem test_dsubu_2 : after (.dsubu 3 0 2) (start 0x100 [(2, 0x5)] [])
    (fun t => (t.reg 3, t.pc)) = some (0xFFFFFFFFFFFFFFFB, 0x104) := by decide
theorem test_and_1 : after (.and 3 1 2) (start 0x100 [(1, 0xFFFF0000FF00F0F0), (2, 0xF0F0F0F0F0F0F0F)] [])
    (fun t => (t.reg 3, t.pc)) = some (0xF0F00000F000000, 0x104) := by decide
theorem test_and_2 : after (.and 3 1 0) (start 0x100 [(1, 0xFFFF0000FF00F0F0)] [])
    (fun t => (t.reg 3, t.pc)) = some (0x0, 0x104) := by decide
theorem test_andi_1 : after (.andi 2 1 0x8001) (start 0x100 [(1, 0xFFFF0000FF00F0F0)] [])
    (fun t => (t.reg 2, t.pc)) = some (0x8000, 0x104) := by decide
theorem test_andi_2 : after (.andi 2 1 0) (start 0x100 [(1, 0xFFFFFFFFFFFFFFFF)] [])
    (fun t => (t.reg 2, t.pc)) = some (0x0, 0x104) := by decide
theorem test_or_1 : after (.or 3 1 2) (start 0x100 [(1, 0xFFFF0000FF00F0F0), (2, 0xF0F0F0F0F0F0F0F)] [])
    (fun t => (t.reg 3, t.pc)) = some (0xFFFF0F0FFF0FFFFF, 0x104) := by decide
theorem test_or_2 : after (.or 3 1 0) (start 0x100 [(1, 0xFFFF0000FF00F0F0)] [])
    (fun t => (t.reg 3, t.pc)) = some (0xFFFF0000FF00F0F0, 0x104) := by decide
theorem test_ori_1 : after (.ori 2 1 0x8001) (start 0x100 [(1, 0xFFFF0000FF00F0F0)] [])
    (fun t => (t.reg 2, t.pc)) = some (0xFFFF0000FF00F0F1, 0x104) := by decide
theorem test_ori_2 : after (.ori 2 0 0xFFFF) (start 0x100 [] [])
    (fun t => (t.reg 2, t.pc)) = some (0xFFFF, 0x104) := by decide
theorem test_xor_1 : after (.xor 3 1 2) (start 0x100 [(1, 0xFFFF0000FF00F0F0), (2, 0xF0F0F0F0F0F0F0F)] [])
    (fun t => (t.reg 3, t.pc)) = some (0xF0F00F0FF00FFFFF, 0x104) := by decide
theorem test_xor_2 : after (.xor 3 1 1) (start 0x100 [(1, 0xFFFF0000FF00F0F0)] [])
    (fun t => (t.reg 3, t.pc)) = some (0x0, 0x104) := by decide
theorem test_xori_1 : after (.xori 2 1 0x8001) (start 0x100 [(1, 0xFFFF0000FF00F0F0)] [])
    (fun t => (t.reg 2, t.pc)) = some (0xFFFF0000FF0070F1, 0x104) := by decide
theorem test_xori_2 : after (.xori 2 1 0xFFFF) (start 0x100 [(1, 0xFFFFFFFFFFFFFFFF)] [])
    (fun t => (t.reg 2, t.pc)) = some (0xFFFFFFFFFFFF0000, 0x104) := by decide
theorem test_lui_1 : after (.lui 2 0x8000) (start 0x100 [(2, 0x55)] [])
    (fun t => (t.reg 2, t.pc)) = some (0xFFFFFFFF80000000, 0x104) := by decide
theorem test_lui_2 : after (.lui 2 0x7FFF) (start 0x100 [] [])
    (fun t => (t.reg 2, t.pc)) = some (0x7FFF0000, 0x104) := by decide
theorem test_sll_1 : after (.sll 3 2 0) (start 0x100 [(2, 0x1FFFFFFFF)] [])
    (fun t => (t.reg 3, t.pc)) = some (0xFFFFFFFFFFFFFFFF, 0x104) := by decide
theorem test_sll_2 : after (.sll 3 2 4) (start 0x100 [(2, 0x8000000)] [])
    (fun t => (t.reg 3, t.pc)) = some (0xFFFFFFFF80000000, 0x104) := by decide
theorem test_sllv_1 : after (.sllv 3 2 1) (start 0x100 [(1, 0x21), (2, 0x1)] [])
    (fun t => (t.reg 3, t.pc)) = some (0x2, 0x104) := by decide
theorem test_sllv_2 : after (.sllv 3 2 1) (start 0x100 [(1, 0xFFFFFFFFFFFFFFFF), (2, 0x1)] [])
    (fun t => (t.reg 3, t.pc)) = some (0xFFFFFFFF80000000, 0x104) := by decide
theorem test_srl_1 : after (.srl 3 2 1) (start 0x100 [(2, 0xFFFFFFFF80000001)] [])
    (fun t => (t.reg 3, t.pc)) = some (0x40000000, 0x104) := by decide
theorem test_srl_2 : after (.srl 3 2 4) (start 0x100 [(2, 0x1234567880000000)] [])
    (fun t => (t.reg 3, t.pc)) = some (0x8000000, 0x104) := by decide
theorem test_srlv_1 : after (.srlv 3 2 1) (start 0x100 [(1, 0x24), (2, 0xFFFFFFFF80000001)] [])
    (fun t => (t.reg 3, t.pc)) = some (0x8000000, 0x104) := by decide
theorem test_srlv_2 : after (.srlv 3 2 1) (start 0x100 [(1, 0x0), (2, 0xFFFFFFFF80000001)] [])
    (fun t => (t.reg 3, t.pc)) = some (0xFFFFFFFF80000001, 0x104) := by decide
theorem test_sra_1 : after (.sra 3 2 1) (start 0x100 [(2, 0xFFFFFFFF80000001)] [])
    (fun t => (t.reg 3, t.pc)) = some (0xFFFFFFFFC0000000, 0x104) := by decide
theorem test_sra_2 : after (.sra 3 2 0) (start 0x100 [(2, 0x80000000)] [])
    (fun t => (t.reg 3, t.pc)) = some (0xFFFFFFFF80000000, 0x104) := by decide
theorem test_srav_1 : after (.srav 3 2 1) (start 0x100 [(1, 0x28), (2, 0xFFFFFFFF80000001)] [])
    (fun t => (t.reg 3, t.pc)) = some (0xFFFFFFFFFF800000, 0x104) := by decide
theorem test_srav_2 : after (.srav 3 2 1) (start 0x100 [(1, 0x1F), (2, 0x7FFFFFFF)] [])
    (fun t => (t.reg 3, t.pc)) = some (0x0, 0x104) := by decide
theorem test_dsll_1 : after (.dsll 3 2 0) (start 0x100 [(2, 0x8000000000000001)] [])
    (fun t => (t.reg 3, t.pc)) = some (0x8000000000000001, 0x104) := by decide
theorem test_dsll_2 : after (.dsll 3 2 31) (start 0x100 [(2, 0xFFFFFFFFFFFFFFFF)] [])
    (fun t => (t.reg 3, t.pc)) = some (0xFFFFFFFF80000000, 0x104) := by decide
theorem test_dsllv_1 : after (.dsllv 3 2 1) (start 0x100 [(1, 0x40), (2, 0x1234)] [])
    (fun t => (t.reg 3, t.pc)) = some (0x1234, 0x104) := by decide
theorem test_dsllv_2 : after (.dsllv 3 2 1) (start 0x100 [(1, 0xFFFFFFFFFFFFFFC1), (2, 0x3)] [])
    (fun t => (t.reg 3, t.pc)) = some (0x6, 0x104) := by decide
theorem test_dsrl_1 : after (.dsrl 3 2 1) (start 0x100 [(2, 0x8000000000000001)] [])
    (fun t => (t.reg 3, t.pc)) = some (0x4000000000000000, 0x104) := by decide
theorem test_dsrl_2 : after (.dsrl 3 2 0) (start 0x100 [(2, 0x8000000000000001)] [])
    (fun t => (t.reg 3, t.pc)) = some (0x8000000000000001, 0x104) := by decide
theorem test_dsrlv_1 : after (.dsrlv 3 2 1) (start 0x100 [(1, 0x20), (2, 0x1234567890ABCDEF)] [])
    (fun t => (t.reg 3, t.pc)) = some (0x12345678, 0x104) := by decide
theorem test_dsrlv_2 : after (.dsrlv 3 2 1) (start 0x100 [(1, 0x40), (2, 0x8000000000000001)] [])
    (fun t => (t.reg 3, t.pc)) = some (0x8000000000000001, 0x104) := by decide
theorem test_dsra_1 : after (.dsra 3 2 1) (start 0x100 [(2, 0x8000000000000001)] [])
    (fun t => (t.reg 3, t.pc)) = some (0xC000000000000000, 0x104) := by decide
theorem test_dsra_2 : after (.dsra 3 2 4) (start 0x100 [(2, 0x7000000000000000)] [])
    (fun t => (t.reg 3, t.pc)) = some (0x700000000000000, 0x104) := by decide
theorem test_dsrav_1 : after (.dsrav 3 2 1) (start 0x100 [(1, 0x3F), (2, 0x8000000000000001)] [])
    (fun t => (t.reg 3, t.pc)) = some (0xFFFFFFFFFFFFFFFF, 0x104) := by decide
theorem test_dsrav_2 : after (.dsrav 3 2 1) (start 0x100 [(1, 0x20), (2, 0x8234567890ABCDEF)] [])
    (fun t => (t.reg 3, t.pc)) = some (0xFFFFFFFF82345678, 0x104) := by decide
theorem test_slt_1 : after (.slt 3 1 2) (start 0x100 [(1, 0x8000000000000000), (2, 0x7FFFFFFFFFFFFFFF)] [])
    (fun t => (t.reg 3, t.pc)) = some (0x1, 0x104) := by decide
theorem test_slt_2 : after (.slt 3 1 2) (start 0x100 [(1, 0x7), (2, 0x7), (3, 0x55)] [])
    (fun t => (t.reg 3, t.pc)) = some (0x0, 0x104) := by decide
theorem test_sltu_1 : after (.sltu 3 1 2) (start 0x100 [(1, 0xFFFFFFFFFFFFFFFF), (2, 0x0), (3, 0x55)] [])
    (fun t => (t.reg 3, t.pc)) = some (0x0, 0x104) := by decide
theorem test_sltu_2 : after (.sltu 3 1 2) (start 0x100 [(1, 0x0), (2, 0xFFFFFFFFFFFFFFFF)] [])
    (fun t => (t.reg 3, t.pc)) = some (0x1, 0x104) := by decide
theorem test_slti_1 : after (.slti 2 1 0xFFFF) (start 0x100 [(1, 0xFFFFFFFFFFFFFFFE)] [])
    (fun t => (t.reg 2, t.pc)) = some (0x1, 0x104) := by decide
theorem test_slti_2 : after (.slti 2 1 0x8000) (start 0x100 [(1, 0xFFFFFFFFFFFF8000), (2, 0x55)] [])
    (fun t => (t.reg 2, t.pc)) = some (0x0, 0x104) := by decide
theorem test_sltiu_1 : after (.sltiu 2 1 0x8000) (start 0x100 [(1, 0x7FFFFFFFFFFFFFFF)] [])
    (fun t => (t.reg 2, t.pc)) = some (0x1, 0x104) := by decide
theorem test_sltiu_2 : after (.sltiu 2 1 0) (start 0x100 [(1, 0xFFFFFFFFFFFFFFFF), (2, 0x55)] [])
    (fun t => (t.reg 2, t.pc)) = some (0x0, 0x104) := by decide
theorem test_movn_1 : after (.movn 3 1 2) (start 0x100 [(1, 0x7), (2, 0x0), (3, 0x9)] [])
    (fun t => (t.reg 3, t.pc)) = some (9, 0x104) := by decide
theorem test_movn_2 : after (.movn 3 1 2) (start 0x100 [(1, 0x7), (2, 0x100000000), (3, 0x9)] [])
    (fun t => (t.reg 3, t.pc)) = some (0x7, 0x104) := by decide
theorem test_movz_1 : after (.movz 3 1 2) (start 0x100 [(1, 0x7), (2, 0x1), (3, 0x9)] [])
    (fun t => (t.reg 3, t.pc)) = some (9, 0x104) := by decide
theorem test_movz_2 : after (.movz 3 1 0) (start 0x100 [(1, 0x7), (3, 0x9)] [])
    (fun t => (t.reg 3, t.pc)) = some (0x7, 0x104) := by decide
theorem test_mult_1 : after (.mult 1 2) (start 0x100 [(1, 0xFFFFFFFFFFFFFFFF), (2, 0x5)] [])
    (fun t => (t.hi, t.lo, t.pc)) = some (0xFFFFFFFFFFFFFFFF, 0xFFFFFFFFFFFFFFFB, 0x104) := by decide
theorem test_mult_2 : after (.mult 1 2) (start 0x100 [(1, 0x10000), (2, 0x8000)] [])
    (fun t => (t.hi, t.lo, t.pc)) = some (0x0, 0xFFFFFFFF80000000, 0x104) := by decide
theorem test_multu_1 : after (.multu 1 2) (start 0x100 [(1, 0xFFFFFFFF), (2, 0x2)] [])
    (fun t => (t.hi, t.lo, t.pc)) = some (0x1, 0xFFFFFFFFFFFFFFFE, 0x104) := by decide
theorem test_multu_2 : after (.multu 1 2) (start 0x100 [(1, 0xFFFFFFFF80000000), (2, 0x2)] [])
    (fun t => (t.hi, t.lo, t.pc)) = some (0x1, 0x0, 0x104) := by decide
theorem test_dmult_1 : after (.dmult 1 2) (start 0x100 [(1, 0xFFFFFFFFFFFFFFFF), (2, 0x5)] [])
    (fun t => (t.hi, t.lo, t.pc)) = some (0xFFFFFFFFFFFFFFFF, 0xFFFFFFFFFFFFFFFB, 0x104) := by decide
theorem test_dmult_2 : after (.dmult 1 2) (start 0x100 [(1, 0x8000000000000000), (2, 0x8000000000000000)] [])
    (fun t => (t.hi, t.lo, t.pc)) = some (0x4000000000000000, 0x0, 0x104) := by decide
theorem test_dmultu_1 : after (.dmultu 1 2) (start 0x100 [(1, 0xFFFFFFFFFFFFFFFF), (2, 0xFFFFFFFFFFFFFFFF)] [])
    (fun t => (t.hi, t.lo, t.pc)) = some (0xFFFFFFFFFFFFFFFE, 0x1, 0x104) := by decide
theorem test_dmultu_2 : after (.dmultu 1 2) (start 0x100 [(1, 0xFFFFFFFFFFFFFFFF), (2, 0x5)] [])
    (fun t => (t.hi, t.lo, t.pc)) = some (0x4, 0xFFFFFFFFFFFFFFFB, 0x104) := by decide
theorem test_div_1 : after (.div 1 2) (start 0x100 [(1, 0xFFFFFFFFFFFFFFF9), (2, 0x2)] [])
    (fun t => (t.hi, t.lo, t.pc)) = some (0xFFFFFFFFFFFFFFFF, 0xFFFFFFFFFFFFFFFD, 0x104) := by decide
theorem test_div_2 : after (.div 1 2) (start 0x100 [(1, 0xFFFFFFFF80000000), (2, 0xFFFFFFFFFFFFFFFF)] [])
    (fun t => (t.hi, t.lo, t.pc)) = some (0x0, 0xFFFFFFFF80000000, 0x104) := by decide
theorem test_divu_1 : after (.divu 1 2) (start 0x100 [(1, 0xFFFFFFFFFFFFFFFF), (2, 0x2)] [])
    (fun t => (t.hi, t.lo, t.pc)) = some (0x1, 0x7FFFFFFF, 0x104) := by decide
theorem test_divu_2 : after (.divu 1 2) (start 0x100 [(1, 0xFFFFFFFF80000000), (2, 0x7FFFFFFF)] [])
    (fun t => (t.hi, t.lo, t.pc)) = some (0x1, 0x1, 0x104) := by decide
theorem test_ddiv_1 : after (.ddiv 1 2) (start 0x100 [(1, 0xFFFFFFFFFFFFFFF9), (2, 0x2)] [])
    (fun t => (t.hi, t.lo, t.pc)) = some (0xFFFFFFFFFFFFFFFF, 0xFFFFFFFFFFFFFFFD, 0x104) := by decide
theorem test_ddiv_2 : after (.ddiv 1 2) (start 0x100 [(1, 0x8000000000000000), (2, 0xFFFFFFFFFFFFFFFF)] [])
    (fun t => (t.hi, t.lo, t.pc)) = some (0x0, 0x8000000000000000, 0x104) := by decide
theorem test_ddivu_1 : after (.ddivu 1 2) (start 0x100 [(1, 0xFFFFFFFFFFFFFFFF), (2, 0x2)] [])
    (fun t => (t.hi, t.lo, t.pc)) = some (0x1, 0x7FFFFFFFFFFFFFFF, 0x104) := by decide
theorem test_ddivu_2 : after (.ddivu 1 2) (start 0x100 [(1, 0x8000000000000000), (2, 0xFFFFFFFFFFFFFFFF)] [])
    (fun t => (t.hi, t.lo, t.pc)) = some (0x8000000000000000, 0x0, 0x104) := by decide
theorem test_mfhi_1 : after (.mfhi 3) ((start 0x100 [] []).setHi 0x1122334455667788 |>.setLo 0x99)
    (fun t => (t.reg 3, t.pc)) = some (0x1122334455667788, 0x104) := by decide
theorem test_mfhi_2 : after (.mfhi 0) ((start 0x100 [] []).setHi 0x11 |>.setLo 0x99)
    (fun t => (t.reg 0, t.pc)) = some (0, 0x104) := by decide
theorem test_mflo_1 : after (.mflo 3) ((start 0x100 [] []).setHi 0x1122334455667788 |>.setLo 0x99)
    (fun t => (t.reg 3, t.pc)) = some (0x99, 0x104) := by decide
theorem test_b_1 : after (.b 3) (start 0x8 [] [])
    (fun t => t.pc) = some 0x18 := by decide
theorem test_b_2 : after (.b 0x8000) (start 0x40000 [] [])
    (fun t => t.pc) = some 0x20004 := by decide
theorem test_beq_1 : after (.beq 1 2 0xFFFE) (start 0xC [(1, 0x5), (2, 0x5)] [])
    (fun t => t.pc) = some 0x8 := by decide
theorem test_beq_2 : after (.beq 1 2 4) (start 0x0 [(1, 0xFFFFFFFF), (2, 0xFFFFFFFFFFFFFFFF)] [])
    (fun t => t.pc) = some 0x4 := by decide
theorem test_beqz_1 : after (.beqz 1 3) (start 0x0 [(1, 0x0)] [])
    (fun t => t.pc) = some 0x10 := by decide
theorem test_beqz_2 : after (.beqz 1 3) (start 0x0 [(1, 0x100000000)] [])
    (fun t => t.pc) = some 0x4 := by decide
theorem test_bgez_1 : after (.bgez 1 3) (start 0x0 [(1, 0x8000000000000000)] [])
    (fun t => t.pc) = some 0x4 := by decide
theorem test_bgez_2 : after (.bgez 1 3) (start 0x0 [(1, 0x80000000)] [])
    (fun t => t.pc) = some 0x10 := by decide
theorem test_bne_1 : after (.bne 1 2 0xFFFE) (start 0xC [(1, 0x1), (2, 0x2)] [])
    (fun t => t.pc) = some 0x8 := by decide
theorem test_bne_2 : after (.bne 1 2 0xFFFE) (start 0xC [(1, 0x2), (2, 0x2)] [])
    (fun t => t.pc) = some 0x10 := by decide
theorem test_bnez_1 : after (.bnez 1 0xFFFD) (start 0x10 [(1, 0x3)] [])
    (fun t => t.pc) = some 0x8 := by decide
theorem test_bnez_2 : after (.bnez 1 0xFFFD) (start 0x10 [(1, 0x0)] [])
    (fun t => t.pc) = some 0x14 := by decide
theorem test_j_1 : after (.j 0x3FFFFFF) (start 0x100 [] [])
    (fun t => t.pc) = some 0xFFFFFFC := by decide
theorem test_j_2 : after (.j 0x10) (start 0xFFFFFFC [] [])
    (fun t => t.pc) = some 0x10000040 := by decide
theorem test_jal_1 : after (.jal 0x10) (start 0x8 [] [])
    (fun t => (t.reg 31, t.pc)) = some (0xC, 0x40) := by decide
theorem test_jal_2 : after (.jal 0x10) (start 0x10000000 [(31, 0x55)] [])
    (fun t => (t.reg 31, t.pc)) = some (0x10000004, 0x10000040) := by decide
theorem test_jalr_1 : after (.jalr 4 5) (start 0x8 [(5, 0x40)] [])
    (fun t => (t.reg 4, t.pc)) = some (0xC, 0x40) := by decide
theorem test_jalr_2 : after (.jalr 31 31) (start 0x8 [(31, 0x40)] [])
    (fun t => (t.reg 31, t.pc)) = some (0xC, 0x40) := by decide
theorem test_jr_1 : after (.jr 31) (start 0x40 [(31, 0xC)] [])
    (fun t => t.pc) = some 0xC := by decide
theorem test_jr_2 : after (.jr 1) (start 0x40 [(1, 0xFFFFFFFFFFFFFFFC)] [])
    (fun t => t.pc) = some 0xFFFFFFFFFFFFFFFC := by decide
theorem test_ld_1 : after (.ld 2 8 1) (start 0x100 [(1, 0x100)] littleDouble)
    (fun t => (t.reg 2, t.pc)) = some (0xF1E2D3C4B5A69788, 0x104) := by decide
theorem test_ld_2 : after (.ld 2 8 1) (startBig 0x100 [(1, 0x100)] bigDouble)
    (fun t => (t.reg 2, t.pc)) = some (0xF1E2D3C4B5A69788, 0x104) := by decide
theorem test_lw_1 : after (.lw 2 0xC 1) (start 0x100 [(1, 0x100)] littleDouble)
    (fun t => (t.reg 2, t.pc)) = some (0xFFFFFFFFF1E2D3C4, 0x104) := by decide
theorem test_lw_2 : after (.lw 2 8 1) (startBig 0x100 [(1, 0x100)] bigDouble)
    (fun t => (t.reg 2, t.pc)) = some (0xFFFFFFFFF1E2D3C4, 0x104) := by decide
theorem test_lwu_1 : after (.lwu 2 0xC 1) (start 0x100 [(1, 0x100)] littleDouble)
    (fun t => (t.reg 2, t.pc)) = some (0xF1E2D3C4, 0x104) := by decide
theorem test_lwu_2 : after (.lwu 2 8 1) (startBig 0x100 [(1, 0x100)] bigDouble)
    (fun t => (t.reg 2, t.pc)) = some (0xF1E2D3C4, 0x104) := by decide
theorem test_lh_1 : after (.lh 2 0xE 1) (start 0x100 [(1, 0x100)] littleDouble)
    (fun t => (t.reg 2, t.pc)) = some (0xFFFFFFFFFFFFF1E2, 0x104) := by decide
theorem test_lh_2 : after (.lh 2 8 1) (startBig 0x100 [(1, 0x100)] bigDouble)
    (fun t => (t.reg 2, t.pc)) = some (0xFFFFFFFFFFFFF1E2, 0x104) := by decide
theorem test_lhu_1 : after (.lhu 2 0xE 1) (start 0x100 [(1, 0x100)] littleDouble)
    (fun t => (t.reg 2, t.pc)) = some (0xF1E2, 0x104) := by decide
theorem test_lhu_2 : after (.lhu 2 8 1) (startBig 0x100 [(1, 0x100)] bigDouble)
    (fun t => (t.reg 2, t.pc)) = some (0xF1E2, 0x104) := by decide
theorem test_lb_1 : after (.lb 2 0xF 1) (start 0x100 [(1, 0x100)] littleDouble)
    (fun t => (t.reg 2, t.pc)) = some (0xFFFFFFFFFFFFFFF1, 0x104) := by decide
theorem test_lb_2 : after (.lb 2 0xFFFF 0) (start 0x100 [(2, 0x55)] [])
    (fun t => (t.status, t.pc)) = some (.fault (.addressError .load 0xFFFFFFFFFFFFFFFF), 0x100) := by decide
theorem test_lbu_1 : after (.lbu 2 0xF 1) (start 0x100 [(1, 0x100)] littleDouble)
    (fun t => (t.reg 2, t.pc)) = some (0xF1, 0x104) := by decide
theorem test_lbu_2 : after (.lbu 2 8 1) (startBig 0x100 [(1, 0x100)] bigDouble)
    (fun t => (t.reg 2, t.pc)) = some (0xF1, 0x104) := by decide
theorem test_sd_1 : after (.sd 2 8 1) (start 0x100 [(1, 0x100), (2, 0x123456789ABCDEF)] [])
    (fun t => (t.mem, t.pc)) = some ([(0x108, 0xEF), (0x109, 0xCD), (0x10A, 0xAB), (0x10B, 0x89), (0x10C, 0x67), (0x10D, 0x45), (0x10E, 0x23), (0x10F, 0x1)], 0x104) := by decide
theorem test_sd_2 : after (.sd 2 8 1) (startBig 0x100 [(1, 0x100), (2, 0x123456789ABCDEF)] [])
    (fun t => (t.mem, t.pc)) = some ([(0x108, 0x1), (0x109, 0x23), (0x10A, 0x45), (0x10B, 0x67), (0x10C, 0x89), (0x10D, 0xAB), (0x10E, 0xCD), (0x10F, 0xEF)], 0x104) := by decide
theorem test_sw_1 : after (.sw 2 8 1) (start 0x100 [(1, 0x100), (2, 0x123456789ABCDEF)] [])
    (fun t => (t.mem, t.pc)) = some ([(0x108, 0xEF), (0x109, 0xCD), (0x10A, 0xAB), (0x10B, 0x89)], 0x104) := by decide
theorem test_sw_2 : after (.sw 2 8 1) (startBig 0x100 [(1, 0x100), (2, 0x123456789ABCDEF)] [])
    (fun t => (t.mem, t.pc)) = some ([(0x108, 0x89), (0x109, 0xAB), (0x10A, 0xCD), (0x10B, 0xEF)], 0x104) := by decide
theorem test_sh_1 : after (.sh 2 8 1) (start 0x100 [(1, 0x100), (2, 0x123456789ABCDEF)] [])
    (fun t => (t.mem, t.pc)) = some ([(0x108, 0xEF), (0x109, 0xCD)], 0x104) := by decide
theorem test_sh_2 : after (.sh 2 8 1) (startBig 0x100 [(1, 0x100), (2, 0x123456789ABCDEF)] [])
    (fun t => (t.mem, t.pc)) = some ([(0x108, 0xCD), (0x109, 0xEF)], 0x104) := by decide
theorem test_sb_1 : after (.sb 2 0 1) (start 0x100 [(1, 0x1000), (2, 0x7)] [])
    (fun t => (t.status, t.pc)) = some (.fault (.addressError .store 0x1000), 0x100) := by decide
theorem test_sb_2 : after (.sb 2 0 1) (start 0x100 [(1, 0xFFF), (2, 0x1FF)] [])
    (fun t => (t.mem, t.pc)) = some ([(0xFFF, 0xFF)], 0x104) := by decide
theorem test_halt_1 : after .halt (start 0xC [] [])
    (fun t => (t.status, t.pc)) = some (.halted, 0xC) := by decide
theorem test_nop_1 : after .nop (start 0x4 [] [])
    (fun t => t.pc) = some 0x8 := by decide

/-! ### Fetching, reset, launch -/

theorem test_step_add : afterStep (running [0x00221820] 0 [(1, 3), (2, 4)]) (fun t => (t.reg 3, t.pc)) = some (7, 4) := by decide
theorem test_step_past_end : afterStep (running [0x00221820] 4 []) (fun t => t.status) = some (.fault (.addressError .fetch 4)) := by
  decide
theorem test_step_reserved : afterStep (running [0x00000001] 0 []) (fun t => (t.status, t.pc)) =
    some (.fault (.reservedInstruction 1), 0) := by decide
theorem test_step_ended : afterStep { start 0 [] [] with status := .halted } (fun t => t.pc) = none := by decide
theorem test_reset_runs_placed_word :
    afterStep (State.reset.withFetchWord 32 0x3C028000) (fun t => t.reg 2) = some 0xFFFFFFFF80000000 := by decide
theorem test_launch : (launch someLaunch).map (fun s => (s.reg 1, s.hi, s.lo, s.pc)) = some (6, 2, 0, 0x400) := by decide
theorem test_launch_memory : (launch someLaunch).map (fun s => s.mem) = some [(3, 8), (63, 9)] := by decide
theorem test_launch_nothing : launch ⟨State.reset.params, [], [], [], none, none, 0⟩ = some State.reset := by decide
theorem test_launch_unspecified : (launch someOpenLaunch).map (fun s => (s.reg 1, s.reg 2, s.hi, s.lo)) =
    some (6, Config.freeValue 5, 2, Config.freeValue 36) := rfl
theorem test_launch_outside : launch { someLaunch with image := [(64, 1)] } = none := by decide
theorem test_launch_register_zero : launch { someLaunch with regs := [(0, 1)] } = none := by decide

/-! ### Witnesses: encoding and the assembler -/

theorem witness_EncodedInstructionDecodesToItself : defaultParams.wellFormed = true ∧ otherParams.wellFormed = true := by decide

theorem witness_StrictDecodeDropsNoBit :
    defaultParams.strictDecode = true ∧ decode defaultParams 0x00221820 = some (.add 3 1 2) := by decide

theorem witness_DecodeFollowsOpcodeTable_spelled : defaultParams.strictDecode = true ∧
    (0x00221820 : Word32) ≠ defaultParams.haltWord ∧ ∃ r ∈ coreRows, r.spells 0x00221820 = true := by decide

theorem witness_DecodeFollowsOpcodeTable_reserved : defaultParams.strictDecode = true ∧
    (0x04000001 : Word32) ≠ defaultParams.haltWord ∧ ∀ r ∈ coreRows, r.spells 0x04000001 = false := by decide

theorem witness_AssembledLabelIsReached_farthest :
    assemble (start 0 [] []).pc ⟨.b, [.label 0x20000]⟩ = some (.b 0x7FFF) := by decide

theorem witness_AssembledLabelIsReached_back :
    assemble (start 0x40000 [] []).pc ⟨.b, [.label 0x20004]⟩ = some (.b 0x8000) := by decide

theorem witness_AssembledLabelIsReached_beq :
    assemble (start 0 [(1, 5), (2, 5)] []).pc ⟨.beq, [.reg (1 : Reg).val, .reg (2 : Reg).val, .label 0x20000]⟩ =
      some (.beq 1 2 0x7FFF) := by decide

theorem witness_AssembledLabelIsReached_bne :
    assemble (start 0x40000 [(1, 5)] []).pc ⟨.bne, [.reg (1 : Reg).val, .reg (2 : Reg).val, .label 0x20004]⟩ =
      some (.bne 1 2 0x8000) := by decide

theorem witness_AssembledLabelIsReached_beqz :
    assemble (start 0 [] []).pc ⟨.beqz, [.reg (1 : Reg).val, .label 0x20000]⟩ = some (.beqz 1 0x7FFF) := by decide

theorem witness_AssembledLabelIsReached_bnez :
    assemble (start 0x40000 [(1, 5)] []).pc ⟨.bnez, [.reg (1 : Reg).val, .label 0x20004]⟩ = some (.bnez 1 0x8000) := by
  decide

theorem witness_AssembledLabelIsReached_bgez :
    assemble (start 8 [(1, 0)] []).pc ⟨.bgez, [.reg (1 : Reg).val, .label 8]⟩ = some (.bgez 1 0xFFFF) := by decide

theorem witness_AssembledLabelIsReached_across :
    assemble (start 0xFFFFFFFFFFFFFFF8 [] []).pc ⟨.b, [.label 4]⟩ = some (.b 2) := by decide

theorem witness_AssembledLabelIsReached_jump :
    assemble (start 0xFFFFFFC [] []).pc ⟨.j, [.label 0x1FFFFFFC]⟩ = some (.j 0x3FFFFFF) := by decide

theorem witness_AssembledLabelIsReached_call :
    assemble (start 0xFFFFFFC [] []).pc ⟨.jal, [.label 0x10000000]⟩ = some (.jal 0) := by decide

/-! ### Witnesses: a step -/

theorem witness_StepRunsDecodedInstruction :
    let s := running [0x04000000, 0x00221820] 4 []
    s.status = .running ∧ s.pc.toNat % 4 = 0 ∧ s.params.codeBase.toNat ≤ s.pc.toNat ∧
      s.code[(s.pc.toNat - s.params.codeBase.toNat) / 4]? = some 0x00221820 ∧
      decode s.params 0x00221820 = some (.add 3 1 2) := by decide

theorem witness_BadPcTrapsAtFetch_misaligned :
    let s := running [0x00221820] 2 []
    s.status = .running ∧ s.pc.toNat % 4 ≠ 0 := by decide

theorem witness_BadPcTrapsAtFetch_below :
    let s := { running [0x00221820] 0x3FC [] with params := otherParams }
    s.status = .running ∧ s.pc.toNat < s.params.codeBase.toNat := by decide

theorem witness_BadPcTrapsAtFetch_beyond :
    let s := running [0x00221820] 4 []
    s.status = .running ∧ s.params.codeBase.toNat + 4 * s.code.length ≤ s.pc.toNat := by decide

theorem witness_ReservedWordTraps :
    let s := running [0x00000001] 0 []
    s.status = .running ∧ s.pc.toNat % 4 = 0 ∧ s.params.codeBase.toNat ≤ s.pc.toNat ∧
      s.code[(s.pc.toNat - s.params.codeBase.toNat) / 4]? = some 1 ∧ decode s.params 1 = none := by decide

theorem witness_ExactlyRunningStatesStep : (start 0 [] []).status = .running := by decide

theorem witness_PlacedWordRunsFirst : decodeTableWord 32 0x00221820 = some (.add 3 1 2) := by decide

theorem witness_LaunchBuildsTheStateTheHostSupplies_zero :
    someLaunch.params.resetRegs = .zero ∧ ∃ s, launch someLaunch = some s := ⟨rfl, _, rfl⟩

theorem witness_LaunchBuildsTheStateTheHostSupplies_unspecified :
    someOpenLaunch.params.resetRegs = .unspecified ∧ ∃ s, launch someOpenLaunch = some s := ⟨rfl, _, rfl⟩

theorem witness_LaunchBuildsTheStateTheHostSupplies_byte :
    (0 : Nat) < someOpenLaunch.params.dataMemBytes ∧ 63 < someOpenLaunch.params.dataMemBytes := by decide

theorem witness_EndedRunStaysEnded : (runFor 1 (running [0x04000000] 0 [])).status ≠ .running ∧ 1 ≤ 3 := by decide

theorem witness_GoodEndMeansNoTrap : (runFor 2 (running [0x00221820, 0x04000000] 0 [])).endedWell = true := by decide

theorem witness_OnlyHaltOrFaultStops_halt :
    (running [0x04000000] 0 []).status = .running ∧
      afterStep (running [0x04000000] 0 []) (fun t => t.status) = some .halted := by decide

theorem witness_OnlyHaltOrFaultStops_fault :
    (running [] 0 []).status = .running ∧
      afterStep (running [] 0 []) (fun t => t.status) = some (.fault (.addressError .fetch 0)) := by decide

/-! ### Witnesses: invariants -/

theorem start_inv : (running [0xFC220008] 0 [(1, 0x100), (2, 7)]).Inv := ⟨by decide, by decide, by decide⟩

theorem witness_StepKeepsTheInvariant :
    let s := running [0xFC220008] 0 [(1, 0x100), (2, 7)]
    s.Inv ∧ ∃ t, step s = .next t ∧ t.mem = [(0x108, 7)] := ⟨start_inv, _, rfl, by decide⟩

theorem witness_LaunchedRunsKeepTheInvariant : ∃ s, launch someLaunch = some s ∧ s.mem = [(3, 8), (63, 9)] :=
  ⟨_, rfl, by decide⟩

theorem witness_StepKeepsProgramAndParameters : ∃ t, step (running [0xFC220008] 0 [(1, 0x100), (2, 7)]) = .next t := ⟨_, rfl⟩

theorem witness_NoInstructionTouchesTheProgram : ∃ t, exec (.sd 2 8 1) (start 0x100 [(1, 0x100)] []) = .next t := ⟨_, rfl⟩

theorem witness_OnlyRegisterJumpsMisalignThePc :
    let s := start 8 [] []
    (∃ t, exec (.b 3) s = .next t) ∧ s.pc.toNat % 4 = 0 ∧ (∀ rs, Instr.b 3 ≠ .jr rs) ∧ ∀ rd rs, Instr.b 3 ≠ .jalr rd rs :=
  ⟨⟨_, rfl⟩, by decide, by simp, by simp⟩

theorem witness_EqualReadsMeanEqualMemory :
    Memory.wf littleDouble ∧ Memory.wf littleDouble ∧ ∀ a, littleDouble.read a = littleDouble.read a :=
  ⟨by decide, by decide, fun _ => rfl⟩

/-! ### Witnesses: what only some instructions do -/

theorem witness_OnlyTheDestinationRegisterChanges :
    (∃ t, exec (.add 3 1 2) (start 0 [(1, 5)] []) = .next t) ∧ destination (.add 3 1 2) ≠ some 1 := ⟨⟨_, rfl⟩, by decide⟩

theorem witness_OnlyMultiplyDivideAndMovesTouchHiLo_left :
    (∃ t, exec (.mfhi 3) (start 0 [] []) = .next t) ∧ isMultiplyOrDivide (.mfhi 3) = false := ⟨⟨_, rfl⟩, by decide⟩

theorem witness_OnlyMultiplyDivideAndMovesTouchHiLo_unread :
    (∃ t, exec (.mult 1 2) (start 0 [] []) = .next t) ∧ readsHiLo (.mult 1 2) = false := ⟨⟨_, rfl⟩, by decide⟩

theorem witness_OnlyStoresChangeMemory :
    (∃ t, exec (.ld 2 8 1) (start 0 [(1, 0x100)] littleDouble) = .next t) ∧ (storeForm (.ld 2 8 1)).isNone = true :=
  ⟨⟨_, rfl⟩, by decide⟩

theorem witness_TrapsChangeOnlyTheStatus :
    ∃ t, step (running [0x00221820] 0 [(1, 0x7FFFFFFF), (2, 1)]) = .next t ∧ t.status = .fault .integerOverflow :=
  ⟨_, rfl, by decide⟩

theorem witness_OnlySixInstructionsOverflow :
    let s := start 0 [(1, 0x7FFFFFFF), (2, 1)] []
    s.status = .running ∧ ∃ t, exec (.add 3 1 2) s = .next t ∧ t.status = .fault .integerOverflow :=
  ⟨by decide, _, rfl, by decide⟩

theorem witness_OnlyHaltEndsTheRun :
    let s := start 0 [] []
    s.status = .running ∧ (∃ t, exec .halt s = .next t) ∧ ∃ t, exec .nop s = .next t := ⟨by decide, ⟨_, rfl⟩, ⟨_, rfl⟩⟩

/-! ### Witnesses: arithmetic at the ends of the ranges -/

theorem witness_WordAddSubIsExactOrTraps_fits :
    let s := start 0 [(1, 0x7FFFFFFE), (2, 1), (3, 0xFFFFFFFF80000001)] []
    signedWord s 1 + signedWord s 2 = 2 ^ 31 - 1 ∧ signedWord s 3 + (0xFFFF : Imm16).toInt = -2 ^ 31 ∧
      signedWord s 3 - signedWord s 2 = -2 ^ 31 := by decide

theorem witness_WordAddSubIsExactOrTraps_traps :
    let s := start 0 [(1, 0x7FFFFFFF), (2, 1), (3, 0xFFFFFFFF80000000)] []
    signedWord s 1 + signedWord s 2 = 2 ^ 31 ∧ signedWord s 3 + (0xFFFF : Imm16).toInt = -2 ^ 31 - 1 ∧
      signedWord s 3 - signedWord s 2 = -2 ^ 31 - 1 := by decide

theorem witness_DoubleAddSubIsExactOrTraps_fits :
    let s := start 0 [(1, 0x7FFFFFFFFFFFFFFE), (2, 1), (3, 0x8000000000000001)] []
    signedDouble s 1 + signedDouble s 2 = 2 ^ 63 - 1 ∧ signedDouble s 3 + (0xFFFF : Imm16).toInt = -2 ^ 63 ∧
      signedDouble s 3 - signedDouble s 2 = -2 ^ 63 := by decide

theorem witness_DoubleAddSubIsExactOrTraps_traps :
    let s := start 0 [(1, 0x7FFFFFFFFFFFFFFF), (2, 1), (3, 0x8000000000000000)] []
    signedDouble s 1 + signedDouble s 2 = 2 ^ 63 ∧ signedDouble s 3 + (0xFFFF : Imm16).toInt = -2 ^ 63 - 1 ∧
      signedDouble s 3 - signedDouble s 2 = -2 ^ 63 - 1 := by decide

theorem witness_ShiftAmountsAreLowOrderBits_word :
    (31 : ShiftAmount).val = ((start 0 [(1, 0xFFFFFFFFFFFFFFFF)] []).reg 1).toNat % 32 := by decide

theorem witness_ShiftAmountsAreLowOrderBits_double :
    (31 : ShiftAmount).val = ((start 0 [(1, 0xFFFFFFFFFFFFFFDF)] []).reg 1).toNat % 64 := by decide

theorem witness_ShiftAmountsAreLowOrderBits_field : ∃ n : Int, n = (31 : ShiftAmount).val := ⟨31, by decide⟩

theorem witness_ShiftAmountsAreLowOrderBits_refused : ((-1 : Int) < 0 ∨ 31 < (-1 : Int)) ∧ ((32 : Int) < 0 ∨ 31 < (32 : Int)) := by
  decide

theorem witness_ConditionalMovesMoveOrOnlyAdvance_notZero : (start 0 [(2, 0x100000000)] []).reg 2 ≠ 0 := by decide

theorem witness_ConditionalMovesMoveOrOnlyAdvance_zero : (start 0 [(1, 7)] []).reg 2 = 0 := by decide

theorem witness_DivideWritesQuotientAndRemainder_nonzero :
    let s := start 0 [(1, 7), (2, 0xFFFFFFFF)] []
    signedWord s 2 ≠ 0 ∧ unsignedWord s 2 ≠ 0 ∧ signedDouble s 2 ≠ 0 ∧ unsignedDouble s 2 ≠ 0 := by decide

theorem witness_DivideWritesQuotientAndRemainder_wordWraps :
    let s := start 0 [(1, 0x80000000), (2, 0xFFFFFFFF)] []
    signedWord s 1 = -2 ^ 31 ∧ signedWord s 2 = -1 := by decide

theorem witness_DivideWritesQuotientAndRemainder_doubleWraps :
    let s := start 0 [(1, 0x8000000000000000), (2, 0xFFFFFFFFFFFFFFFF)] []
    signedDouble s 1 = -2 ^ 63 ∧ signedDouble s 2 = -1 := by decide

theorem witness_DivideByZeroDrawsFreeValues_word : ((start 0 [(2, 0x100000000)] []).reg 2).toNat % 2 ^ 32 = 0 := by decide

theorem witness_DivideByZeroDrawsFreeValues_double : (start 0 [(1, 7)] []).reg 2 = 0 := by decide

/-! ### Witnesses: memory, at both ends of data memory and just outside -/

theorem witness_LoadsReadTheBytesOfMemory_first :
    loadForm (.ld 2 0 0) = some ⟨8, false, 2, 0, 0⟩ ∧ MemForm.good ⟨8, false, 2, 0, 0⟩ (start 0 [] []) :=
  ⟨rfl, by constructor <;> decide⟩

theorem witness_LoadsReadTheBytesOfMemory_last :
    loadForm (.lb 2 0xFFF 0) = some ⟨1, true, 2, 0xFFF, 0⟩ ∧ MemForm.good ⟨1, true, 2, 0xFFF, 0⟩ (startBig 0 [] []) :=
  ⟨rfl, by constructor <;> decide⟩

theorem witness_StoresWriteExactlyTheirBytes :
    let s := running [0xFC220008] 0 [(1, 0x100), (2, 7)]
    s.Inv ∧ storeForm (.sw 2 0xEFC 1) = some ⟨4, false, 2, 0xEFC, 1⟩ ∧ MemForm.good ⟨4, false, 2, 0xEFC, 1⟩ s :=
  ⟨start_inv, rfl, by constructor <;> decide⟩

theorem witness_BadAccessesTrapWithTheirAddress_misaligned :
    loadForm (.ld 0 4 0) = some ⟨8, false, 0, 4, 0⟩ ∧ ¬ MemForm.good ⟨8, false, 0, 4, 0⟩ (start 0 [] []) :=
  ⟨rfl, fun h => absurd h.1 (by decide)⟩

theorem witness_BadAccessesTrapWithTheirAddress_outside :
    storeForm (.sb 2 0x1000 0) = some ⟨1, false, 2, 0x1000, 0⟩ ∧ ¬ MemForm.good ⟨1, false, 2, 0x1000, 0⟩ (start 0 [] []) :=
  ⟨rfl, fun h => absurd h.2 (by decide)⟩

theorem witness_LoadAfterStoreGivesTheStoredValue :
    let s := running [0xFC220008] 0 [(1, 0x100), (2, 7)]
    s.Inv ∧ storeForm (.sh 2 8 1) = some ⟨2, false, 2, 8, 1⟩ ∧ loadForm (.lh 3 8 1) = some ⟨2, true, 3, 8, 1⟩ ∧
      MemForm.good ⟨2, false, 2, 8, 1⟩ s ∧ (3 : Reg) ≠ 0 :=
  ⟨start_inv, rfl, rfl, by constructor <;> decide, by decide⟩

theorem witness_NopOnlyAdvancesThePc : defaultParams.haltWord ≠ 0 := by decide

end Sys2Proof.Tests
end

/-! PROOFS. HI and LO (spec/10_state.md R14): which instructions write them and which read them. Every instruction but the
multiplies, the divides, MFHI and MFLO commutes with replacing HI and LO; that it leaves them and that it does not read them
both follow from this one fact. -/

namespace Sys2Proof.Machine

open Sys2Proof.Claims

/-! ### Replacing HI and LO -/

/-- The state with other values in HI and LO. -/
def State.withHiLo (s : State) (h l : Word) : State := { s with hi := h, lo := l }

/-! ### Operations that commute with the replacement -/

/-- The operation answers a next state, and from other values of HI and LO the same one but for these values: it neither
reads nor writes them. -/
def PassesHiLo (f : State → Result) : Prop :=
  ∀ s, ∃ t, f s = .next t ∧ ∀ h l, f (s.withHiLo h l) = .next (t.withHiLo h l)

/-- The operation answers a next state, and from other values of HI and LO the same one but that each of the two may hold the
value it was given: it does not read them. -/
def IgnoresHiLo (f : State → Result) : Prop :=
  ∀ s, ∃ t, f s = .next t ∧ ∀ h l, ∃ a b, f (s.withHiLo h l) = .next (t.withHiLo a b) ∧
    (a = t.hi ∨ a = h) ∧ (b = t.lo ∨ b = l)

theorem PassesHiLo.ignores {f : State → Result} (hf : PassesHiLo f) : IgnoresHiLo f := fun s =>
  let ⟨t, ht, hp⟩ := hf s
  ⟨t, ht, fun h l => ⟨h, l, hp h l, .inr rfl, .inr rfl⟩⟩

/-- Replacing HI and LO by what they hold changes nothing, so they hold it after the operation too. -/
theorem PassesHiLo.keeps {f : State → Result} (hf : PassesHiLo f) {s t : State} (ht : f s = .next t) :
    t.hi = s.hi ∧ t.lo = s.lo := by
  obtain ⟨u, hu, hp⟩ := hf s
  have hself : f s = .next (u.withHiLo s.hi s.lo) := hp s.hi s.lo
  rw [ht] at hself
  cases hself
  exact ⟨rfl, rfl⟩

/-- An operation that answers the same state whatever HI and LO hold does not read them. -/
theorem IgnoresHiLo.of_eq {f : State → Result} (hf : ∀ s, Answers s (f s))
    (heq : ∀ s h l, f (s.withHiLo h l) = f s) : IgnoresHiLo f := fun s =>
  let ⟨t, ht, _⟩ := hf s
  ⟨t, ht, fun h l => ⟨t.hi, t.lo, (heq s h l).trans ht, .inl rfl, .inl rfl⟩⟩

/-! ### The shared operations -/

theorem writeOrTrap_passesHiLo (r : Reg) (v : Option Word) : PassesHiLo (writeOrTrap r v) := by
  intro s
  cases v with
  | some w => exact ⟨_, writeOrTrap_some r w s, fun h l => writeOrTrap_some r w (s.withHiLo h l)⟩
  | none => exact ⟨_, writeOrTrap_none r s, fun h l => writeOrTrap_none r (s.withHiLo h l)⟩

theorem movn_passesHiLo (rd rs rt : Reg) : PassesHiLo (execMovn rd rs rt) := by
  intro s
  by_cases hz : s.reg rt ≠ 0
  · exact ⟨_, if_pos hz, fun _ _ => if_pos hz⟩
  · exact ⟨_, if_neg hz, fun _ _ => if_neg hz⟩

theorem movz_passesHiLo (rd rs rt : Reg) : PassesHiLo (execMovz rd rs rt) := by
  intro s
  by_cases hz : s.reg rt = 0
  · exact ⟨_, if_pos hz, fun _ _ => if_pos hz⟩
  · exact ⟨_, if_neg hz, fun _ _ => if_neg hz⟩

/-- Whether the access is good, and the bytes it reads, do not depend on HI and LO. -/
theorem load_passesHiLo (n : Nat) (ext : BitVec (8 * n) → Word) (rt base : Reg) (offset : Imm16) :
    PassesHiLo (load n ext rt base offset) := by
  intro s
  rcases load_cases n ext rt base offset s with ⟨ha, ht⟩ | ⟨ha, ht⟩
  · exact ⟨_, ht, fun h l => ((load_cases n ext rt base offset (s.withHiLo h l)).resolve_right
      fun hb => Bool.noConfusion (ha.symm.trans hb.1)).2⟩
  · exact ⟨_, ht, fun h l => ((load_cases n ext rt base offset (s.withHiLo h l)).resolve_left
      fun hb => Bool.noConfusion (ha.symm.trans hb.1)).2⟩

/-- Whether the access is good, and the bytes it writes, do not depend on HI and LO. -/
theorem store_passesHiLo (n : Nat) (rt base : Reg) (offset : Imm16) : PassesHiLo (store n rt base offset) := by
  intro s
  rcases store_cases n rt base offset s with ⟨ha, ht⟩ | ⟨ha, ht⟩
  · exact ⟨_, ht, fun h l => ((store_cases n rt base offset (s.withHiLo h l)).resolve_right
      fun hb => Bool.noConfusion (ha.symm.trans hb.1)).2⟩
  · exact ⟨_, ht, fun h l => ((store_cases n rt base offset (s.withHiLo h l)).resolve_left
      fun hb => Bool.noConfusion (ha.symm.trans hb.1)).2⟩

/-- A product writes LO, and writes or holds HI as MULT_WRITES_HI says (R171). -/
theorem writeProduct_ignoresHiLo (hi lo : Word) : IgnoresHiLo (writeProduct hi lo) := by
  intro s
  refine ⟨_, writeProduct_eq hi lo s, fun h l =>
    ⟨if s.params.multWritesHi then hi else h, lo, writeProduct_eq hi lo (s.withHiLo h l), ?_, .inl rfl⟩⟩
  cases s.params.multWritesHi with
  | true => exact .inl rfl
  | false => exact .inr rfl

/-- A word divide writes both HI and LO, by a zero divisor too (R172, R173). -/
theorem wordDivide_withHiLo (a b : Int) (s : State) (h l : Word) :
    wordDivide a b (s.withHiLo h l) = wordDivide a b s := by
  unfold wordDivide
  split <;> rfl

/-- A doubleword divide writes both HI and LO, by a zero divisor too (R172, R173). -/
theorem doubleDivide_withHiLo (a b : Int) (s : State) (h l : Word) :
    doubleDivide a b (s.withHiLo h l) = doubleDivide a b s := by
  unfold doubleDivide
  split <;> rfl

/-! ### The instructions -/

/-- The readers of HI and LO are MFHI and MFLO. -/
theorem readsHiLo_eq_true (i : Instr) (h : readsHiLo i = true) : ∃ rd, i = .mfhi rd ∨ i = .mflo rd := by
  cases i with
  | mfhi rd => exact ⟨rd, .inl rfl⟩
  | mflo rd => exact ⟨rd, .inr rfl⟩
  | _ => cases h

theorem exec_passesHiLo (i : Instr) (hw : isMultiplyOrDivide i = false) (hr : readsHiLo i = false) :
    PassesHiLo (exec i) := by
  cases i with
  | add | addi | dadd | daddi | sub | dsub => exact fun s => writeOrTrap_passesHiLo _ _ s
  | addu | addiu | daddu | daddiu | subu | dsubu => exact fun _ => ⟨_, rfl, fun _ _ => rfl⟩
  | and | andi | or | ori | xor | xori | lui => exact fun _ => ⟨_, rfl, fun _ _ => rfl⟩
  | sll | sllv | srl | srlv | sra | srav => exact fun _ => ⟨_, rfl, fun _ _ => rfl⟩
  | dsll | dsllv | dsrl | dsrlv | dsra | dsrav => exact fun _ => ⟨_, rfl, fun _ _ => rfl⟩
  | slt | slti | sltiu | sltu => exact fun _ => ⟨_, rfl, fun _ _ => rfl⟩
  | movn rd rs rt => exact movn_passesHiLo rd rs rt
  | movz rd rs rt => exact movz_passesHiLo rd rs rt
  | mult | multu | dmult | dmultu | div | divu | ddiv | ddivu => cases hw
  | mfhi | mflo => cases hr
  | b | beq | beqz | bgez | bne | bnez | j | jr => exact fun _ => ⟨_, rfl, fun _ _ => rfl⟩
  | jal | jalr => exact fun _ => ⟨_, rfl, fun _ _ => rfl⟩
  | lb | lbu | ld | lh | lhu | lw | lwu => exact load_passesHiLo _ _ _ _ _
  | sw | sb | sd | sh => exact store_passesHiLo _ _ _ _
  | halt | nop => exact fun _ => ⟨_, rfl, fun _ _ => rfl⟩

theorem multiplyOrDivide_ignoresHiLo (i : Instr) (hw : isMultiplyOrDivide i = true) : IgnoresHiLo (exec i) := by
  cases i with
  | mult | multu | dmult | dmultu => exact fun s => writeProduct_ignoresHiLo _ _ s
  | div | divu => exact .of_eq (exec_answers _) fun s h l => wordDivide_withHiLo _ _ s h l
  | ddiv | ddivu => exact .of_eq (exec_answers _) fun s h l => doubleDivide_withHiLo _ _ s h l
  | _ => cases hw

theorem exec_ignoresHiLo (i : Instr) (hr : readsHiLo i = false) : IgnoresHiLo (exec i) := by
  cases hw : isMultiplyOrDivide i with
  | false => exact (exec_passesHiLo i hw hr).ignores
  | true => exact multiplyOrDivide_ignoresHiLo i hw

/-- MFHI and MFLO write a general register; what neither multiplies, divides nor reads HI and LO passes them on. -/
theorem exec_keepsHiLo (i : Instr) (s t : State) (hw : isMultiplyOrDivide i = false) (ht : exec i s = .next t) :
    t.hi = s.hi ∧ t.lo = s.lo := by
  cases hr : readsHiLo i with
  | false => exact (exec_passesHiLo i hw hr).keeps ht
  | true =>
    obtain ⟨rd, rfl | rfl⟩ := readsHiLo_eq_true i hr
    · cases ht; exact ⟨rfl, rfl⟩
    · cases ht; exact ⟨rfl, rfl⟩

/-- Settles O28: an instruction other than the multiplies and divides keeps HI and LO, and one other than MFHI and MFLO
answers the same state whatever they hold, up to the values of HI and LO. -/
theorem onlyMultiplyDivideAndMovesTouchHiLo : Obligations.OnlyMultiplyDivideAndMovesTouchHiLo := by
  intro i s t ht
  refine ⟨fun hw => exec_keepsHiLo i s t hw ht, fun hr h l => ?_⟩
  obtain ⟨t', ht', hignores⟩ := exec_ignoresHiLo i hr s
  rw [ht] at ht'
  cases ht'
  obtain ⟨a, b, hu, ha, hb⟩ := hignores h l
  exact ⟨t.withHiLo a b, hu, rfl, rfl, rfl, rfl, rfl, ha, hb⟩

end Sys2Proof.Machine

/-! PROOFS. DADDU, DADDIU and DSUBU (spec/40_add_sub.md R106, R107, R111): each writes one register back, with the exact result
modulo `2^64`, and its word is one whose fields the decoder reads back. -/

namespace Sys2Proof.Machine

open Sys2Proof.Claims

/-! ### Writing one register back -/

/-- What `writeBack` changes and what it leaves unchanged. -/
theorem setReg_advance_writesRegister (s : State) (r : Reg) (v : Word) :
    WritesRegister s (s.setReg r v).advance r v where
  written := State.setReg_reg_same s r v
  zero := State.reg_zero _
  others q := State.setReg_reg_other s r q v
  hi := rfl
  lo := rfl
  bytes _ := rfl
  pc := rfl
  status := rfl
  params := rfl
  code := rfl
  draws := rfl

theorem gives_of_writeBack {i : Instr} {s : State} {r : Reg} {v : Word} (hi : exec i s = writeBack r v s) :
    Gives i s r v :=
  ⟨(s.setReg r v).advance, hi, setReg_advance_writesRegister s r v⟩

/-! ### Results modulo `2^64`

The register operations are additions and subtractions of bit vectors; `doubleResult` carries the exact integer result to them. -/

theorem doubleResult_add (x y : Int) : doubleResult (x + y) = doubleResult x + doubleResult y :=
  BitVec.ofInt_add x y

theorem doubleResult_sub (x y : Int) : doubleResult (x - y) = doubleResult x - doubleResult y := by
  unfold doubleResult
  rw [Int.sub_eq_add_neg, BitVec.ofInt_add, BitVec.ofInt_neg, ← BitVec.sub_eq_add_neg]

theorem doubleResult_signedDouble (s : State) (r : Reg) : doubleResult (signedDouble s r) = s.reg r :=
  BitVec.ofInt_toInt

/-- Sign extension keeps the signed reading of the immediate (R54). -/
theorem doubleResult_imm (imm : Imm16) : doubleResult imm.toInt = signedImm imm := rfl

/-! ### The values written -/

theorem daddu_gives (s : State) (rd rs rt : Reg) :
    Gives (.daddu rd rs rt) s rd (doubleResult (signedDouble s rs + signedDouble s rt)) := by
  rw [doubleResult_add, doubleResult_signedDouble, doubleResult_signedDouble]
  exact gives_of_writeBack rfl

theorem daddiu_gives (s : State) (rt rs : Reg) (imm : Imm16) :
    Gives (.daddiu rt rs imm) s rt (doubleResult (signedDouble s rs + imm.toInt)) := by
  rw [doubleResult_add, doubleResult_signedDouble, doubleResult_imm]
  exact gives_of_writeBack rfl

theorem dsubu_gives (s : State) (rd rs rt : Reg) :
    Gives (.dsubu rd rs rt) s rd (doubleResult (signedDouble s rs - signedDouble s rt)) := by
  rw [doubleResult_sub, doubleResult_signedDouble, doubleResult_signedDouble]
  exact gives_of_writeBack rfl

/-! ### The words (R58) -/

/-- The statements write an R-format word as the encoder builds it. -/
theorem rFormat_eq_rWord (rs rt rd sa : Fin 32) (f : BitVec 6) : rFormat rs rt rd sa f = rWord rs rt rd sa f := rfl

/-- The statements write an I-format word as the encoder builds it. -/
theorem iFormat_eq_iWord (op : BitVec 6) (rs rt : Fin 32) (imm : Imm16) : iFormat op rs rt imm = iWord op rs rt imm := rfl

/-- The major opcode of an R-format word is 000000, so its function code selects the instruction (R51, R57). -/
theorem decodeRow_rWord (strict : Bool) (rs rt rd sa : Fin 32) (f : BitVec 6) :
    decodeRow strict (rWord rs rt rd sa f) = decodeSpecial strict (rWord rs rt rd sa f) := by
  simp [decodeRow]

theorem spells_rFormat {rs rt rd sa : Fin 32} {f : BitVec 6} {i : Instr}
    (hdec : decodeSpecial true (rWord rs rt rd sa f) = some i) (henc : ∀ p, encode p i = rWord rs rt rd sa f) :
    Spells (rFormat rs rt rd sa f) i := by
  rw [rFormat_eq_rWord]
  exact ⟨(decodeRow_rWord true rs rt rd sa f).trans hdec, henc⟩

theorem spells_iFormat {op : BitVec 6} {rs rt : Fin 32} {imm : Imm16} {i : Instr}
    (hdec : decodeRow true (iWord op rs rt imm) = some i) (henc : ∀ p, encode p i = iWord op rs rt imm) :
    Spells (iFormat op rs rt imm) i := by
  rw [iFormat_eq_iWord]
  exact ⟨hdec, henc⟩

theorem daddu_spells (rd rs rt : Reg) : Spells (rFormat rs rt rd 0 0b101101) (.daddu rd rs rt) :=
  spells_rFormat (by simp [decodeSpecial]) fun _ => rfl

theorem daddiu_spells (rt rs : Reg) (imm : Imm16) : Spells (iFormat 0b011001 rs rt imm) (.daddiu rt rs imm) :=
  spells_iFormat (by simp [decodeRow]) fun _ => rfl

theorem dsubu_spells (rd rs rt : Reg) : Spells (rFormat rs rt rd 0 0b101111) (.dsubu rd rs rt) :=
  spells_rFormat (by simp [decodeSpecial]) fun _ => rfl

/-- Settles O36: each of the three writes back its exact result modulo `2^64`, and each is spelled by its word. -/
theorem doubleAddSubUnsignedWraps : Obligations.DoubleAddSubUnsignedWraps := fun s rd rs rt imm =>
  ⟨⟨daddu_gives s rd rs rt, daddu_spells rd rs rt⟩,
    ⟨daddiu_gives s rt rs imm, daddiu_spells rt rs imm⟩,
    ⟨dsubu_gives s rd rs rt, dsubu_spells rd rs rt⟩⟩

end Sys2Proof.Machine

/-! PROOFS. AND, ANDI, OR and XOR (spec/41_logical.md R120, R121, R122, R124): each writes back a value given bit by bit, and its
word is one whose fields the decoder reads back. -/

namespace Sys2Proof.Machine

open Sys2Proof.Claims

/-! ### The bits of the result -/

/-- Zero extension: the 16 bits of the immediate, and zeros above them (R54). -/
theorem getLsbD_zeroImm (imm : Imm16) {k : Nat} (hk : k < 64) :
    (zeroImm imm).getLsbD k = (decide (k < 16) && imm.getLsbD k) := by
  unfold zeroImm
  rw [BitVec.getLsbD_setWidth, decide_eq_true hk, Bool.true_and]
  by_cases h : k < 16
  · rw [decide_eq_true h, Bool.true_and]
  · rw [BitVec.getLsbD_of_ge imm k (Nat.le_of_not_lt h), Bool.and_false]

/-! ### The values written -/

theorem and_gives_bits (s : State) (rd rs rt : Reg) :
    ∃ v, Gives (.and rd rs rt) s rd v ∧
      ∀ k < 64, v.getLsbD k = ((s.reg rs).getLsbD k && (s.reg rt).getLsbD k) :=
  ⟨s.reg rs &&& s.reg rt, gives_of_writeBack rfl, fun _ _ => BitVec.getLsbD_and⟩

theorem andi_gives_bits (s : State) (rt rs : Reg) (imm : Imm16) :
    ∃ v, Gives (.andi rt rs imm) s rt v ∧
      ∀ k < 64, v.getLsbD k = ((s.reg rs).getLsbD k && (decide (k < 16) && imm.getLsbD k)) := by
  refine ⟨s.reg rs &&& zeroImm imm, gives_of_writeBack rfl, fun k hk => ?_⟩
  rw [BitVec.getLsbD_and, getLsbD_zeroImm imm hk]

theorem or_gives_bits (s : State) (rd rs rt : Reg) :
    ∃ v, Gives (.or rd rs rt) s rd v ∧
      ∀ k < 64, v.getLsbD k = ((s.reg rs).getLsbD k || (s.reg rt).getLsbD k) :=
  ⟨s.reg rs ||| s.reg rt, gives_of_writeBack rfl, fun _ _ => BitVec.getLsbD_or⟩

theorem xor_gives_bits (s : State) (rd rs rt : Reg) :
    ∃ v, Gives (.xor rd rs rt) s rd v ∧
      ∀ k < 64, v.getLsbD k = ((s.reg rs).getLsbD k != (s.reg rt).getLsbD k) :=
  ⟨s.reg rs ^^^ s.reg rt, gives_of_writeBack rfl, fun _ _ => BitVec.getLsbD_xor⟩

/-! ### The words (R58) -/

theorem and_spells (rd rs rt : Reg) : Spells (rFormat rs rt rd 0 0b100100) (.and rd rs rt) :=
  spells_rFormat (by simp [decodeSpecial]) fun _ => rfl

theorem andi_spells (rt rs : Reg) (imm : Imm16) : Spells (iFormat 0b001100 rs rt imm) (.andi rt rs imm) :=
  spells_iFormat (by simp [decodeRow]) fun _ => rfl

theorem or_spells (rd rs rt : Reg) : Spells (rFormat rs rt rd 0 0b100101) (.or rd rs rt) :=
  spells_rFormat (by simp [decodeSpecial]) fun _ => rfl

theorem xor_spells (rd rs rt : Reg) : Spells (rFormat rs rt rd 0 0b100110) (.xor rd rs rt) :=
  spells_rFormat (by simp [decodeSpecial]) fun _ => rfl

/-- Settles O37: each of the four writes back a value with the stated bits, and each is spelled by its word. -/
theorem logicalOperationsActBitByBit : Obligations.LogicalOperationsActBitByBit := fun s rd rs rt imm =>
  ⟨⟨and_gives_bits s rd rs rt, and_spells rd rs rt⟩,
    ⟨andi_gives_bits s rt rs imm, andi_spells rt rs imm⟩,
    ⟨or_gives_bits s rd rs rt, or_spells rd rs rt⟩,
    ⟨xor_gives_bits s rd rs rt, xor_spells rd rs rt⟩⟩

end Sys2Proof.Machine

/-! PROOFS. The doubleword shifts (spec/42_shift.md R136 to R141): each writes one register back, with `x[rt]` scaled by the power
of two of the amount, and its word is one whose fields the decoder reads back. -/

namespace Sys2Proof.Machine

open Sys2Proof.Claims

/-! ### Shift amounts by register (R142) -/

theorem wordAmount_eq (s : State) (r : Reg) : s.wordAmount r = (s.reg r).toNat % 32 :=
  BitVec.extractLsb'_toNat 0 5 (s.reg r)

theorem doubleAmount_eq (s : State) (r : Reg) : s.doubleAmount r = (s.reg r).toNat % 64 :=
  BitVec.extractLsb'_toNat 0 6 (s.reg r)

/-! ### Shifts as scaling, at every width -/

theorem ofInt_toNat_mul_two_pow {w : Nat} (x : BitVec w) (k : Nat) : BitVec.ofInt w (x.toNat * 2 ^ k) = x <<< k := by
  have hcast : (x.toNat * 2 ^ k : Int) = ((x.toNat * 2 ^ k : Nat) : Int) := by norm_cast
  rw [hcast, BitVec.ofInt_natCast, ← Nat.shiftLeft_eq]
  rfl

theorem ofInt_toNat_div_two_pow {w : Nat} (x : BitVec w) (k : Nat) : BitVec.ofInt w (x.toNat / 2 ^ k) = x >>> k := by
  have hcast : (x.toNat / 2 ^ k : Int) = ((x.toNat / 2 ^ k : Nat) : Int) := by norm_cast
  rw [hcast, BitVec.ofInt_natCast, ← Nat.shiftRight_eq_div_pow, ← BitVec.toNat_ushiftRight, BitVec.ofNat_toNat,
    BitVec.setWidth_eq]

theorem ofInt_toInt_div_two_pow {w : Nat} (x : BitVec w) (k : Nat) :
    BitVec.ofInt w (x.toInt / 2 ^ k) = x.sshiftRight k := by
  have hcast : (2 ^ k : Int) = ((2 ^ k : Nat) : Int) := by norm_cast
  rw [hcast, ← Int.shiftRight_eq_div_pow, BitVec.sshiftRight_eq]

/-! ### The values of the doubleword shifts -/

theorem doubleResult_mul_two_pow (s : State) (r : Reg) (k : Nat) :
    doubleResult (unsignedDouble s r * 2 ^ k) = s.reg r <<< k :=
  ofInt_toNat_mul_two_pow (s.reg r) k

theorem doubleResult_udiv_two_pow (s : State) (r : Reg) (k : Nat) :
    doubleResult (unsignedDouble s r / 2 ^ k) = s.reg r >>> k :=
  ofInt_toNat_div_two_pow (s.reg r) k

theorem doubleResult_sdiv_two_pow (s : State) (r : Reg) (k : Nat) :
    doubleResult (signedDouble s r / 2 ^ k) = (s.reg r).sshiftRight k :=
  ofInt_toInt_div_two_pow (s.reg r) k

theorem dsll_gives (s : State) (rd rt : Reg) (sa : ShiftAmount) :
    Gives (.dsll rd rt sa) s rd (doubleResult (unsignedDouble s rt * 2 ^ sa.val)) := by
  rw [doubleResult_mul_two_pow]
  exact gives_of_writeBack rfl

theorem dsrl_gives (s : State) (rd rt : Reg) (sa : ShiftAmount) :
    Gives (.dsrl rd rt sa) s rd (doubleResult (unsignedDouble s rt / 2 ^ sa.val)) := by
  rw [doubleResult_udiv_two_pow]
  exact gives_of_writeBack rfl

theorem dsra_gives (s : State) (rd rt : Reg) (sa : ShiftAmount) :
    Gives (.dsra rd rt sa) s rd (doubleResult (signedDouble s rt / 2 ^ sa.val)) := by
  rw [doubleResult_sdiv_two_pow]
  exact gives_of_writeBack rfl

theorem dsllv_gives (s : State) (rd rt rs : Reg) :
    Gives (.dsllv rd rt rs) s rd (doubleResult (unsignedDouble s rt * 2 ^ ((s.reg rs).toNat % 64))) := by
  rw [doubleResult_mul_two_pow, ← doubleAmount_eq]
  exact gives_of_writeBack rfl

theorem dsrlv_gives (s : State) (rd rt rs : Reg) :
    Gives (.dsrlv rd rt rs) s rd (doubleResult (unsignedDouble s rt / 2 ^ ((s.reg rs).toNat % 64))) := by
  rw [doubleResult_udiv_two_pow, ← doubleAmount_eq]
  exact gives_of_writeBack rfl

theorem dsrav_gives (s : State) (rd rt rs : Reg) :
    Gives (.dsrav rd rt rs) s rd (doubleResult (signedDouble s rt / 2 ^ ((s.reg rs).toNat % 64))) := by
  rw [doubleResult_sdiv_two_pow, ← doubleAmount_eq]
  exact gives_of_writeBack rfl

/-! ### The words (R58) -/

theorem dsll_spells (rd rt : Reg) (sa : ShiftAmount) : Spells (rFormat 0 rt rd sa 0b111000) (.dsll rd rt sa) :=
  spells_rFormat (by simp [decodeSpecial]) fun _ => rfl

theorem dsrl_spells (rd rt : Reg) (sa : ShiftAmount) : Spells (rFormat 0 rt rd sa 0b111010) (.dsrl rd rt sa) :=
  spells_rFormat (by simp [decodeSpecial]) fun _ => rfl

theorem dsra_spells (rd rt : Reg) (sa : ShiftAmount) : Spells (rFormat 0 rt rd sa 0b111011) (.dsra rd rt sa) :=
  spells_rFormat (by simp [decodeSpecial]) fun _ => rfl

theorem dsllv_spells (rd rt rs : Reg) : Spells (rFormat rs rt rd 0 0b010100) (.dsllv rd rt rs) :=
  spells_rFormat (by simp [decodeSpecial]) fun _ => rfl

theorem dsrlv_spells (rd rt rs : Reg) : Spells (rFormat rs rt rd 0 0b010110) (.dsrlv rd rt rs) :=
  spells_rFormat (by simp [decodeSpecial]) fun _ => rfl

theorem dsrav_spells (rd rt rs : Reg) : Spells (rFormat rs rt rd 0 0b010111) (.dsrav rd rt rs) :=
  spells_rFormat (by simp [decodeSpecial]) fun _ => rfl

/-- Settles O41: each of the six writes back `x[rt]` scaled by its power of two, and each is spelled by its word. -/
theorem doubleShiftsScaleTheRegister : Obligations.DoubleShiftsScaleTheRegister := fun s rd rt rs sa =>
  ⟨⟨dsll_gives s rd rt sa, dsll_spells rd rt sa⟩,
    ⟨dsrl_gives s rd rt sa, dsrl_spells rd rt sa⟩,
    ⟨dsra_gives s rd rt sa, dsra_spells rd rt sa⟩,
    ⟨dsllv_gives s rd rt rs, dsllv_spells rd rt rs⟩,
    ⟨dsrlv_gives s rd rt rs, dsrlv_spells rd rt rs⟩,
    ⟨dsrav_gives s rd rt rs, dsrav_spells rd rt rs⟩⟩

end Sys2Proof.Machine

/-! PROOFS. Shift amounts (spec/42_shift.md R142): a shift by register is the shift by the constant of the low-order 5 or 6 bits,
the six shifts by a constant scale `x[rt]`, and the assembler takes `rd, rt, rs` and, for a constant, 0 to 31
(spec/30_encoding.md R67, R69). -/

namespace Sys2Proof.Machine

open Sys2Proof.Claims

/-! ### Word operands and results (R112, R143) -/

theorem unsignedWord_eq (s : State) (r : Reg) : unsignedWord s r = (s.word r).toNat := by
  unfold unsignedWord State.word
  rw [BitVec.toNat_setWidth]

theorem signedWord_eq (s : State) (r : Reg) : signedWord s r = (s.word r).toInt := by
  unfold signedWord State.word
  rw [BitVec.toInt_setWidth]

theorem wordResult_eq (x : Int) : wordResult x = sext32 (BitVec.ofInt 32 x) := by
  unfold wordResult sext32 BitVec.signExtend
  rw [BitVec.toInt_ofInt]

/-- Sign extension keeps the word. -/
theorem setWidth_sext32 (w : Word32) : (sext32 w).setWidth 32 = w := by
  unfold sext32
  ext i hi
  rw [BitVec.getElem_setWidth, BitVec.getLsbD_signExtend]
  simp [hi, Nat.lt_trans hi]

theorem toNat_sext32_mod (w : Word32) : (sext32 w).toNat % 2 ^ 32 = w.toNat := by
  rw [← BitVec.toNat_setWidth, setWidth_sext32]

theorem bmod_toNat_sext32 (w : Word32) : Int.bmod (sext32 w).toNat (2 ^ 32) = w.toInt := by
  rw [← BitVec.toInt_setWidth, setWidth_sext32]

/-! ### The word shifts by a constant -/

theorem sll_gives (s : State) (rd rt : Reg) (sa : ShiftAmount) :
    Gives (.sll rd rt sa) s rd (wordResult (unsignedWord s rt * 2 ^ sa.val)) := by
  rw [wordResult_eq, unsignedWord_eq, ofInt_toNat_mul_two_pow]
  exact gives_of_writeBack rfl

theorem srl_gives (s : State) (rd rt : Reg) (sa : ShiftAmount) :
    Gives (.srl rd rt sa) s rd (wordResult (unsignedWord s rt / 2 ^ sa.val)) := by
  rw [wordResult_eq, unsignedWord_eq, ofInt_toNat_div_two_pow]
  exact gives_of_writeBack rfl

theorem sra_gives (s : State) (rd rt : Reg) (sa : ShiftAmount) :
    Gives (.sra rd rt sa) s rd (wordResult (signedWord s rt / 2 ^ sa.val)) := by
  rw [wordResult_eq, signedWord_eq, ofInt_toInt_div_two_pow]
  exact gives_of_writeBack rfl

/-! ### The shifts by register as shifts by a constant -/

theorem exec_word_shift_by_register (s : State) (rd rt rs : Reg) (sa : ShiftAmount) (hsa : sa.val = (s.reg rs).toNat % 32) :
    exec (.sllv rd rt rs) s = exec (.sll rd rt sa) s ∧
    exec (.srlv rd rt rs) s = exec (.srl rd rt sa) s ∧
    exec (.srav rd rt rs) s = exec (.sra rd rt sa) s := by
  have hk : s.wordAmount rs = sa.val := (wordAmount_eq s rs).trans hsa.symm
  exact ⟨congrArg (fun k => writeBack rd (sext32 (s.word rt <<< k)) s) hk,
    congrArg (fun k => writeBack rd (sext32 (s.word rt >>> k)) s) hk,
    congrArg (fun k => writeBack rd (sext32 ((s.word rt).sshiftRight k)) s) hk⟩

theorem exec_double_shift_by_register (s : State) (rd rt rs : Reg) (sa : ShiftAmount) (hsa : sa.val = (s.reg rs).toNat % 64) :
    exec (.dsllv rd rt rs) s = exec (.dsll rd rt sa) s ∧
    exec (.dsrlv rd rt rs) s = exec (.dsrl rd rt sa) s ∧
    exec (.dsrav rd rt rs) s = exec (.dsra rd rt sa) s := by
  have hk : s.doubleAmount rs = sa.val := (doubleAmount_eq s rs).trans hsa.symm
  exact ⟨congrArg (fun k => writeBack rd (s.reg rt <<< k) s) hk,
    congrArg (fun k => writeBack rd (s.reg rt >>> k) s) hk,
    congrArg (fun k => writeBack rd ((s.reg rt).sshiftRight k) s) hk⟩

/-! ### The low word of the word shifts by register -/

theorem sllv_gives_low_word (s : State) (rd rt rs : Reg) :
    ∃ v, Gives (.sllv rd rt rs) s rd v ∧
      v.toNat % 2 ^ 32 = (s.reg rt).toNat * 2 ^ ((s.reg rs).toNat % 32) % 2 ^ 32 := by
  refine ⟨sext32 (s.word rt <<< s.wordAmount rs), gives_of_writeBack rfl, ?_⟩
  rw [toNat_sext32_mod, BitVec.toNat_shiftLeft, Nat.shiftLeft_eq, wordAmount_eq, State.word, BitVec.toNat_setWidth,
    Nat.mod_mul_mod]

theorem srlv_gives_low_word (s : State) (rd rt rs : Reg) :
    ∃ v, Gives (.srlv rd rt rs) s rd v ∧
      v.toNat % 2 ^ 32 = (s.reg rt).toNat % 2 ^ 32 / 2 ^ ((s.reg rs).toNat % 32) := by
  refine ⟨sext32 (s.word rt >>> s.wordAmount rs), gives_of_writeBack rfl, ?_⟩
  rw [toNat_sext32_mod, BitVec.toNat_ushiftRight, Nat.shiftRight_eq_div_pow, wordAmount_eq, State.word,
    BitVec.toNat_setWidth]

theorem srav_gives_low_word (s : State) (rd rt rs : Reg) :
    ∃ v, Gives (.srav rd rt rs) s rd v ∧
      Int.bmod v.toNat (2 ^ 32) = signedWord s rt / 2 ^ ((s.reg rs).toNat % 32) := by
  refine ⟨sext32 ((s.word rt).sshiftRight (s.wordAmount rs)), gives_of_writeBack rfl, ?_⟩
  rw [bmod_toNat_sext32, BitVec.toInt_sshiftRight, Int.shiftRight_eq_div_pow, wordAmount_eq, signedWord_eq]
  norm_cast

/-! ### The doubleword shifts by register, as natural numbers -/

theorem dsllv_gives_ofNat (s : State) (rd rt rs : Reg) :
    Gives (.dsllv rd rt rs) s rd (BitVec.ofNat 64 ((s.reg rt).toNat * 2 ^ ((s.reg rs).toNat % 64))) := by
  rw [← BitVec.ofInt_natCast]
  exact_mod_cast dsllv_gives s rd rt rs

theorem dsrlv_gives_ofNat (s : State) (rd rt rs : Reg) :
    Gives (.dsrlv rd rt rs) s rd (BitVec.ofNat 64 ((s.reg rt).toNat / 2 ^ ((s.reg rs).toNat % 64))) := by
  rw [← BitVec.ofInt_natCast]
  exact_mod_cast dsrlv_gives s rd rt rs

/-! ### The words of the word shifts by a constant (R58) -/

theorem sll_spells (rd rt : Reg) (sa : ShiftAmount) : Spells (rFormat 0 rt rd sa 0b000000) (.sll rd rt sa) :=
  spells_rFormat (by simp [decodeSpecial]) fun _ => rfl

theorem srl_spells (rd rt : Reg) (sa : ShiftAmount) : Spells (rFormat 0 rt rd sa 0b000010) (.srl rd rt sa) :=
  spells_rFormat (by simp [decodeSpecial]) fun _ => rfl

theorem sra_spells (rd rt : Reg) (sa : ShiftAmount) : Spells (rFormat 0 rt rd sa 0b000011) (.sra rd rt sa) :=
  spells_rFormat (by simp [decodeSpecial]) fun _ => rfl

/-! ### The operands (R67, R69) -/

@[simp] theorem toReg_reg (r : Reg) : AsmOperand.toReg (.reg r.val) = some r := dif_pos r.isLt

theorem shift_num_val (sa : ShiftAmount) : AsmOperand.shift (.num sa.val) = some sa := by
  have hrange : 0 ≤ (sa.val : Int) ∧ (sa.val : Int) ≤ 31 := by omega
  simp [AsmOperand.shift, hrange]

theorem shift_num_of_out_of_range {n : Int} (hn : n < 0 ∨ 31 < n) : AsmOperand.shift (.num n) = none :=
  if_neg (by omega)

theorem threeRegs_reg (k : Reg → Reg → Reg → Instr) (a b c : Reg) :
    threeRegs k [.reg a.val, .reg b.val, .reg c.val] = some (k a b c) := by
  simp [threeRegs, twoRegs]

theorem twoRegs_reg_some {α : Type} {f : AsmOperand → Option α} {x : AsmOperand} {v : α} (hx : f x = some v)
    (k : Reg → Reg → α → Instr) (a b : Reg) : twoRegs f k [.reg a.val, .reg b.val, x] = some (k a b v) := by
  simp [twoRegs, hx]

theorem twoRegs_reg_none {α : Type} {f : AsmOperand → Option α} {x : AsmOperand} (hx : f x = none)
    (k : Reg → Reg → α → Instr) (a b : Reg) : twoRegs f k [.reg a.val, .reg b.val, x] = none := by
  simp [twoRegs, hx]

/-! ### The assembler on the twelve shifts -/

theorem assemble_shift_by_register (pc : Word) (m : Mnemonic) (k : Reg → Reg → Reg → Instr)
    (hm : (m, k) ∈ [(Mnemonic.sllv, Instr.sllv), (.srlv, .srlv), (.srav, .srav), (.dsllv, .dsllv), (.dsrlv, .dsrlv),
      (.dsrav, .dsrav)]) (ops : List AsmOperand) : assemble pc ⟨m, ops⟩ = threeRegs k ops := by
  simp only [List.mem_cons, Prod.mk.injEq, List.not_mem_nil, or_false] at hm
  obtain ⟨rfl, rfl⟩ | ⟨rfl, rfl⟩ | ⟨rfl, rfl⟩ | ⟨rfl, rfl⟩ | ⟨rfl, rfl⟩ | ⟨rfl, rfl⟩ := hm <;> rfl

/-- The word of a shift by a constant holds the amount in its `sa` field, and its operands are read as two registers and a shift
amount. -/
theorem shift_by_constant_row (pc : Word) (m : Mnemonic) (k : Reg → Reg → ShiftAmount → Instr) (f : BitVec 6)
    (hm : (m, k, f) ∈ [(Mnemonic.sll, Instr.sll, 0b000000#6), (.srl, .srl, 0b000010#6), (.sra, .sra, 0b000011#6),
      (.dsll, .dsll, 0b111000#6), (.dsrl, .dsrl, 0b111010#6), (.dsra, .dsra, 0b111011#6)]) :
    (∀ rd rt sa, Spells (rFormat 0 rt rd sa f) (k rd rt sa)) ∧
      ∀ ops, assemble pc ⟨m, ops⟩ = twoRegs AsmOperand.shift k ops := by
  simp only [List.mem_cons, Prod.mk.injEq, List.not_mem_nil, or_false] at hm
  obtain ⟨rfl, rfl, rfl⟩ | ⟨rfl, rfl, rfl⟩ | ⟨rfl, rfl, rfl⟩ | ⟨rfl, rfl, rfl⟩ | ⟨rfl, rfl, rfl⟩ | ⟨rfl, rfl, rfl⟩ :=
    hm
  · exact ⟨sll_spells, fun _ => rfl⟩
  · exact ⟨srl_spells, fun _ => rfl⟩
  · exact ⟨sra_spells, fun _ => rfl⟩
  · exact ⟨dsll_spells, fun _ => rfl⟩
  · exact ⟨dsrl_spells, fun _ => rfl⟩
  · exact ⟨dsra_spells, fun _ => rfl⟩

/-- Settles O39: the shifts by register are those by the constant of the low-order bits, the six by a constant scale `x[rt]`, and
the assembler reads the amount as a register or as 0 to 31. -/
theorem shiftAmountsAreLowOrderBits : Obligations.ShiftAmountsAreLowOrderBits := by
  intro s pc rd rt rs
  refine ⟨exec_word_shift_by_register s rd rt rs, exec_double_shift_by_register s rd rt rs,
    fun sa => ⟨sll_gives s rd rt sa, srl_gives s rd rt sa, sra_gives s rd rt sa,
      dsll_gives s rd rt sa, dsrl_gives s rd rt sa, dsra_gives s rd rt sa⟩,
    sllv_gives_low_word s rd rt rs, srlv_gives_low_word s rd rt rs, srav_gives_low_word s rd rt rs,
    dsllv_gives_ofNat s rd rt rs, dsrlv_gives_ofNat s rd rt rs, dsrav_gives s rd rt rs, ?_, ?_⟩
  · intro m k hm
    rw [assemble_shift_by_register pc m k hm, threeRegs_reg]
  · intro m k f hm sa
    obtain ⟨hspells, hassemble⟩ := shift_by_constant_row pc m k f hm
    refine ⟨hspells rd rt sa, fun n => ⟨?_, fun hn => ?_⟩⟩
    · rintro rfl
      rw [hassemble, twoRegs_reg_some (shift_num_val sa)]
    · rw [hassemble, twoRegs_reg_none (shift_num_of_out_of_range hn)]

end Sys2Proof.Machine

/-! PROOFS. SLTIU, SLTU, MOVN and MOVZ (spec/43_compare_move.md R152 to R155): the comparisons write back 1 or 0, the conditional
moves write back `x[rs]` or only advance the pc, and each one's word is one whose fields the decoder reads back. -/

namespace Sys2Proof.Machine

open Sys2Proof.Claims

/-! ### Only advancing the pc -/

/-- What `complete` changes and what it leaves unchanged. -/
theorem advance_goesTo (s : State) : GoesTo s s.advance (s.pc + 4) where
  pc := rfl
  regs _ := rfl
  hi := rfl
  lo := rfl
  bytes _ := rfl
  status := rfl
  params := rfl
  code := rfl
  draws := rfl

theorem goes_of_complete {i : Instr} {s : State} (hi : exec i s = complete s) : Goes i s (s.pc + 4) :=
  ⟨s.advance, hi, advance_goesTo s⟩

/-! ### The values compared and the value written -/

/-- Sign extension read as unsigned: a negative immediate is one of the highest `2^15` values of 64 bits (R54). -/
theorem toNat_signedImm (imm : Imm16) :
    (signedImm imm).toNat = if imm.toNat < 2 ^ 15 then imm.toNat else imm.toNat + (2 ^ 64 - 2 ^ 16) := by
  have himm : imm.toNat % 2 ^ 64 = imm.toNat := Nat.mod_eq_of_lt (by omega)
  unfold signedImm
  rw [BitVec.toNat_signExtend, BitVec.toNat_setWidth, himm, BitVec.msb_eq_decide]
  by_cases h : imm.toNat < 2 ^ 15
  · rw [if_pos h, if_neg (mt of_decide_eq_true (Nat.not_le_of_lt h)), Nat.add_zero]
  · rw [if_neg h, if_pos (decide_eq_true (Nat.le_of_not_lt h))]

theorem truth_decide (c : Prop) [Decidable c] : truth (decide c) = if c then 1 else 0 := by
  by_cases h : c
  · rw [decide_eq_true h, if_pos h]; rfl
  · rw [decide_eq_false h, if_neg h]; rfl

/-! ### The comparisons -/

theorem sltiu_gives (s : State) (rt rs : Reg) (imm : Imm16) :
    Gives (.sltiu rt rs imm) s rt
      (if (s.reg rs).toNat < (if imm.toNat < 2 ^ 15 then imm.toNat else imm.toNat + (2 ^ 64 - 2 ^ 16)) then 1 else 0) := by
  rw [← toNat_signedImm, ← truth_decide]
  exact gives_of_writeBack rfl

theorem sltu_gives (s : State) (rd rs rt : Reg) :
    Gives (.sltu rd rs rt) s rd (if (s.reg rs).toNat < (s.reg rt).toNat then 1 else 0) := by
  rw [← truth_decide]
  exact gives_of_writeBack rfl

/-! ### The conditional moves -/

theorem movn_gives_of_ne_zero {s : State} {rt : Reg} (rd rs : Reg) (hne : s.reg rt ≠ 0) :
    Gives (.movn rd rs rt) s rd (s.reg rs) :=
  gives_of_writeBack (if_pos hne)

theorem movn_goes_of_eq_zero {s : State} {rt : Reg} (rd rs : Reg) (hz : s.reg rt = 0) :
    Goes (.movn rd rs rt) s (s.pc + 4) :=
  goes_of_complete (if_neg (not_not_intro hz))

theorem movz_gives_of_eq_zero {s : State} {rt : Reg} (rd rs : Reg) (hz : s.reg rt = 0) :
    Gives (.movz rd rs rt) s rd (s.reg rs) :=
  gives_of_writeBack (if_pos hz)

theorem movz_goes_of_ne_zero {s : State} {rt : Reg} (rd rs : Reg) (hne : s.reg rt ≠ 0) :
    Goes (.movz rd rs rt) s (s.pc + 4) :=
  goes_of_complete (if_neg hne)

/-! ### The words (R58) -/

theorem sltiu_spells (rt rs : Reg) (imm : Imm16) : Spells (iFormat 0b001011 rs rt imm) (.sltiu rt rs imm) :=
  spells_iFormat (by simp [decodeRow]) fun _ => rfl

theorem sltu_spells (rd rs rt : Reg) : Spells (rFormat rs rt rd 0 0b101011) (.sltu rd rs rt) :=
  spells_rFormat (by simp [decodeSpecial]) fun _ => rfl

theorem movn_spells (rd rs rt : Reg) : Spells (rFormat rs rt rd 0 0b001011) (.movn rd rs rt) :=
  spells_rFormat (by simp [decodeSpecial]) fun _ => rfl

theorem movz_spells (rd rs rt : Reg) : Spells (rFormat rs rt rd 0 0b001010) (.movz rd rs rt) :=
  spells_rFormat (by simp [decodeSpecial]) fun _ => rfl

/-- Settles O43: both comparisons write back 1 or 0 as the unsigned comparison says, and each is spelled by its word. -/
theorem unsignedComparisonsWriteOneOrZero : Obligations.UnsignedComparisonsWriteOneOrZero := fun s rd rs rt imm =>
  ⟨⟨sltiu_gives s rt rs imm, sltiu_spells rt rs imm⟩,
    ⟨sltu_gives s rd rs rt, sltu_spells rd rs rt⟩⟩

/-- Settles O44: on either side of `x[rt] = 0` one of the two moves writes back `x[rs]` and the other only advances the pc, and
each is spelled by its word. -/
theorem conditionalMovesMoveOrOnlyAdvance : Obligations.ConditionalMovesMoveOrOnlyAdvance := fun _ rd rs rt =>
  ⟨fun hne => ⟨movn_gives_of_ne_zero rd rs hne, movz_goes_of_ne_zero rd rs hne⟩,
    fun hz => ⟨movn_goes_of_eq_zero rd rs hz, movz_gives_of_eq_zero rd rs hz⟩,
    movn_spells rd rs rt,
    movz_spells rd rs rt⟩

end Sys2Proof.Machine

/-! PROOFS. MFHI and MFLO (spec/44_muldiv.md R168, R169): each writes HI or LO back to one general register, which leaves both of
them, and its word is one whose fields the decoder reads back. -/

namespace Sys2Proof.Machine

open Sys2Proof.Claims

/-! ### The values copied -/

theorem mfhi_gives (s : State) (rd : Reg) : Gives (.mfhi rd) s rd s.hi :=
  gives_of_writeBack rfl

theorem mflo_gives (s : State) (rd : Reg) : Gives (.mflo rd) s rd s.lo :=
  gives_of_writeBack rfl

/-! ### The words (R58) -/

theorem mfhi_spells (rd : Reg) : Spells (rFormat 0 0 rd 0 0b010000) (.mfhi rd) :=
  spells_rFormat (by simp [decodeSpecial]) fun _ => rfl

theorem mflo_spells (rd : Reg) : Spells (rFormat 0 0 rd 0 0b010010) (.mflo rd) :=
  spells_rFormat (by simp [decodeSpecial]) fun _ => rfl

/-- Settles O49: each of the two writes HI or LO back and nothing else but the pc changes, and each is spelled by its word. -/
theorem movesFromHiLoCopy : Obligations.MovesFromHiLoCopy := fun s rd =>
  ⟨⟨mfhi_gives s rd, mfhi_spells rd⟩, ⟨mflo_gives s rd, mflo_spells rd⟩⟩

end Sys2Proof.Machine

/-! PROOFS. What stops a run (spec/60_exceptions.md R317): of the 70 instructions only HALT ends it; every other one goes on in the
run status it found, or traps. The end is for good because only a running state has a step. -/

namespace Sys2Proof.Machine

/-! ### Every instruction but HALT -/

/-- The outcome `o` of an operation in the state `s` does not end the run: it keeps the run status, or it is a trap. -/
inductive GoesOnOrTraps (s : State) : Result → Prop where
  | goesOn (t : State) (h : t.status = s.status) : GoesOnOrTraps s (.next t)
  | trapped (e : Trap) : GoesOnOrTraps s (.next (s.setStatus (.fault e)))

theorem GoesOnOrTraps.next {s : State} {o : Result} (h : GoesOnOrTraps s o) :
    ∃ t, o = .next t ∧ (t.status = s.status ∨ ∃ e, t.status = .fault e) := by
  cases h with
  | goesOn t ht => exact ⟨t, rfl, .inl ht⟩
  | trapped e => exact ⟨_, rfl, .inr ⟨e, rfl⟩⟩

theorem GoesOnOrTraps.ite {s : State} {c : Prop} [Decidable c] {o o' : Result} (h : GoesOnOrTraps s o)
    (h' : GoesOnOrTraps s o') : GoesOnOrTraps s (if c then o else o') := by
  split
  · exact h
  · exact h'

theorem writeOrTrap_goesOnOrTraps (r : Reg) (v : Option Word) (s : State) : GoesOnOrTraps s (writeOrTrap r v s) := by
  rcases writeOrTrap_cases r v s with ⟨_, -, h⟩ | ⟨-, h⟩
  · rw [h]; exact .goesOn _ rfl
  · rw [h]; exact .trapped _

theorem load_goesOnOrTraps (n : Nat) (ext : BitVec (8 * n) → Word) (rt base : Reg) (offset : Imm16) (s : State) :
    GoesOnOrTraps s (load n ext rt base offset s) := by
  rcases load_cases n ext rt base offset s with ⟨-, h⟩ | ⟨-, h⟩
  · rw [h]; exact .goesOn _ rfl
  · rw [h]; exact .trapped _

theorem store_goesOnOrTraps (n : Nat) (rt base : Reg) (offset : Imm16) (s : State) :
    GoesOnOrTraps s (store n rt base offset s) := by
  rcases store_cases n rt base offset s with ⟨-, h⟩ | ⟨-, h⟩
  · rw [h]; exact .goesOn _ rfl
  · rw [h]; exact .trapped _

theorem exec_goesOnOrTraps (i : Instr) (hi : i ≠ .halt) (s : State) : GoesOnOrTraps s (exec i s) := by
  cases i with
  | add | addi | dadd | daddi | sub | dsub => exact writeOrTrap_goesOnOrTraps _ _ s
  | addu | addiu | daddu | daddiu | subu | dsubu => exact .goesOn _ rfl
  | and | andi | or | ori | xor | xori | lui => exact .goesOn _ rfl
  | sll | sllv | srl | srlv | sra | srav => exact .goesOn _ rfl
  | dsll | dsllv | dsrl | dsrlv | dsra | dsrav => exact .goesOn _ rfl
  | slt | slti | sltiu | sltu => exact .goesOn _ rfl
  | movn | movz => exact .ite (.goesOn _ rfl) (.goesOn _ rfl)
  | mult | multu | dmult | dmultu => exact .goesOn _ rfl
  | div | divu | ddiv | ddivu => exact .ite (.goesOn _ rfl) (.goesOn _ rfl)
  | mfhi | mflo => exact .goesOn _ rfl
  | b | beq | beqz | bgez | bne | bnez => exact .goesOn _ rfl
  | j | jal | jalr | jr => exact .goesOn _ rfl
  | lb | lbu | ld | lh | lhu | lw | lwu => exact load_goesOnOrTraps _ _ _ _ _ s
  | sw | sb | sd | sh => exact store_goesOnOrTraps _ _ _ _ s
  | halt => exact absurd rfl hi
  | nop => exact .goesOn _ rfl

/-! ### The step -/

/-- The word that the next step fetches is there and decodes to HALT. -/
def State.AtHalt (s : State) : Prop := ∃ w, s.fetch = some w ∧ decode s.params w = some .halt

/-- At a HALT the run ends (R220); anywhere else the machine goes on or traps (R302, R303, R304). -/
theorem cycle_halts_or_goesOnOrTraps (s : State) :
    (s.AtHalt ∧ cycle s = .next (s.setStatus .halted)) ∨ GoesOnOrTraps s (cycle s) := by
  rcases cycle_cases s with ⟨-, hc⟩ | ⟨w, -, -, hc⟩ | ⟨w, i, hf, hd, hc⟩
  · rw [hc]; exact .inr (.trapped _)
  · rw [hc]; exact .inr (.trapped _)
  · rw [hc]
    by_cases hi : i = .halt
    · subst hi
      exact .inl ⟨⟨w, hf, hd⟩, rfl⟩
    · exact .inr (exec_goesOnOrTraps i hi s)

theorem step_of_running (s : State) (hs : s.status = .running) :
    ∃ t, step s = .next t ∧
      (t.status = .running ∨ (t.status = .halted ∧ s.AtHalt) ∨ ∃ e, t.status = .fault e) := by
  rw [step_running s hs]
  rcases cycle_halts_or_goesOnOrTraps s with ⟨hhalt, hc⟩ | hgoes
  · exact ⟨_, hc, .inr (.inl ⟨rfl, hhalt⟩)⟩
  · obtain ⟨t, hc, ht⟩ := hgoes.next
    exact ⟨t, hc, ht.imp (·.trans hs) .inr⟩

theorem step_ne_next_of_not_running {t : State} (ht : t.status ≠ .running) (u : State) : step t ≠ .next u :=
  fun hu => ht (step_effect t u hu).1

/-- Settles O19: a running state steps to one that runs, halted at a HALT or has trapped, and one that does not run has no step. -/
theorem onlyHaltOrFaultStops : Obligations.OnlyHaltOrFaultStops := fun s hs =>
  let ⟨t, ht, hend⟩ := step_of_running s hs
  ⟨t, ht, fun hstop => ⟨hend.resolve_left hstop, step_ne_next_of_not_running hstop⟩⟩

end Sys2Proof.Machine

/-! PROOFS. Encoding and decoding (spec/30_encoding.md R50 to R64): the decoder reads back every field that the encoder writes, so
an encoded instruction is decoded to itself, or for an idiom to its core instruction; under strict decode the word is the one that
the encoder writes for the instruction read from it; and the words read are those that a core row of the opcode table spells. -/

namespace Sys2Proof.Machine

open Sys2Proof.Claims

/-! ### An encoded instruction is read back -/

/-- The rows of R58 read back the word of every core instruction but HALT, under strict decode and without it: unused fields are
written as zero. -/
theorem decodeRow_encode (strict : Bool) (p : Params) (i : Instr) (hcore : i.isCore = true) (hi : i ≠ .halt) :
    decodeRow strict (encode p i) = some i := by
  cases i with
  | b | beqz | bnez | nop => cases hcore
  | halt => exact absurd rfl hi
  | add | addu | sub | subu | dadd | daddu | dsub | dsubu | and | or | xor | slt | sltu | movn | movz =>
    exact (decodeRow_rWord ..).trans (by simp [decodeSpecial])
  | sll | srl | sra | dsll | dsrl | dsra | sllv | srlv | srav | dsllv | dsrlv | dsrav =>
    exact (decodeRow_rWord ..).trans (by simp [decodeSpecial])
  | mult | multu | dmult | dmultu | div | divu | ddiv | ddivu | mfhi | mflo | jr | jalr =>
    exact (decodeRow_rWord ..).trans (by simp [decodeSpecial])
  | addi | addiu | daddi | daddiu | slti | sltiu | andi | ori | xori | lui => simp [encode, decodeRow]
  | beq | bne | bgez | j | jal => simp [encode, decodeRow]
  | lb | lbu | ld | lh | lhu | lw | lwu | sw | sb | sd | sh => simp [encode, decodeRow]

/-- An idiom has the word of its core instruction (R64). -/
theorem encode_expand (p : Params) (i : Instr) : encode p i.expand = encode p i := by
  cases i <;> rfl

theorem expand_isCore (i : Instr) : i.expand.isCore = true := by
  cases i <;> rfl

/-- Settles O1: HALT_WORD is tested first, and well-formed parameters keep it from every other instruction's word, which the rows
read back. -/
theorem encodedInstructionDecodesToItself : Obligations.EncodedInstructionDecodesToItself := by
  intro p i hp
  rw [← encode_expand, decode]
  have hhalt : decodeRow p.strictDecode p.haltWord = none := by
    simpa using (Bool.and_eq_true_iff.1 hp).2
  by_cases hi : i.expand = .halt
  · rw [hi]
    exact if_pos rfl
  · have hrow := decodeRow_encode p.strictDecode p i.expand (expand_isCore i) hi
    rw [if_neg, hrow]
    intro hw
    rw [hw, hhalt] at hrow
    cases hrow

/-! ### The word that strict decode reads an instruction from -/

theorem rWord_eq_of_fields {w : Word32} {f : BitVec 6} (hop : opcodeField w = 0) (hf : functField w = f) :
    rWord (rsField w) (rtField w) (rdField w) (saField w) f = w :=
  hf ▸ rWord_of_fields w hop

theorem iWord_eq_of_fields {w : Word32} {op : BitVec 6} (hop : opcodeField w = op) :
    iWord op (rsField w) (rtField w) (immField w) = w :=
  hop ▸ iWord_of_fields w

theorem jWord_eq_of_fields {w : Word32} {op : BitVec 6} (hop : opcodeField w = op) :
    jWord op (indexField w) = w :=
  hop ▸ jWord_of_fields w

/-- An instruction read from `w` that the encoder writes as `w`, which is a core instruction and no HALT. -/
def ReadFrom (w : Word32) (i : Instr) : Prop := (∀ p, encode p i = w) ∧ i.isCore = true ∧ i ≠ .halt

/-- Reading with unused fields that are zero. -/
theorem readFrom_of_unused {w : Word32} {fields : List (Fin 32)} {i j : Instr} (h : unused true fields i = some j)
    (hi : (∀ f ∈ fields, f = 0) → ReadFrom w i) : ReadFrom w j := by
  obtain ⟨rfl, hzero⟩ := unused_eq_some fields i j h
  exact hi hzero

/-- The function codes of R57: the fields of the instruction and the zeros of the unused ones make up the word. -/
theorem decodeSpecial_readFrom {w : Word32} {i : Instr} (hop : opcodeField w = 0) (h : decodeSpecial true w = some i) :
    ReadFrom w i := by
  unfold decodeSpecial at h
  split at h
  case h_40 => cases h
  all_goals
    rename_i hf
    refine readFrom_of_unused h fun hzero => ⟨fun p => ?_, rfl, by simp⟩
    have hw := rWord_eq_of_fields hop hf
    simp only [List.mem_cons, List.not_mem_nil, or_false, forall_eq_or_imp, forall_eq] at hzero
    simp only [hzero] at hw
    exact hw

/-- The major opcodes of R56. The cases named are the function codes, BGEZ, whose `rt` is 1, J and JAL, which have an index, LUI,
whose `rs` is unused, and the reserved opcodes; the other rows have the whole I format. -/
theorem decodeRow_readFrom {w : Word32} {i : Instr} (h : decodeRow true w = some i) : ReadFrom w i := by
  unfold decodeRow at h
  split at h
  case h_28 => cases h
  case h_1 hop => exact decodeSpecial_readFrom hop h
  case h_2 hop =>
    split at h
    · rename_i hrt
      cases h
      refine ⟨fun p => ?_, rfl, by simp⟩
      have hw := iWord_eq_of_fields hop
      rw [hrt] at hw
      exact hw
    · cases h
  case h_3 hop => cases h; exact ⟨fun _ => jWord_eq_of_fields hop, rfl, by simp⟩
  case h_4 hop => cases h; exact ⟨fun _ => jWord_eq_of_fields hop, rfl, by simp⟩
  case h_14 hop =>
    refine readFrom_of_unused h fun hzero => ⟨fun p => ?_, rfl, by simp⟩
    have hw := iWord_eq_of_fields hop
    rw [hzero (rsField w) (by simp)] at hw
    exact hw
  all_goals
    rename_i hop
    cases h
    exact ⟨fun _ => iWord_eq_of_fields hop, rfl, by simp⟩

/-- Settles O2: HALT_WORD is the word of HALT, and a row reads an instruction only from the word that the encoder writes. -/
theorem strictDecodeDropsNoBit : Obligations.StrictDecodeDropsNoBit := by
  intro p w i hstrict h
  unfold decode at h
  split at h
  · rename_i hw
    cases h
    exact ⟨hw.symm, rfl⟩
  · rw [hstrict] at h
    obtain ⟨henc, hcore, -⟩ := decodeRow_readFrom h
    exact ⟨henc p, hcore⟩

/-! ### The rows of the opcode table (R58) -/

/-- Two rows that ask different bits where both masks look have no word in common. -/
theorem not_spells_both {r q : OpcodeRow} (h : r.bits &&& q.mask ≠ q.bits &&& r.mask) (w : Word32) :
    ¬ (r.spells w = true ∧ q.spells w = true) := by
  rintro ⟨hr, hq⟩
  have hr : w &&& r.mask = r.bits := of_decide_eq_true hr
  have hq : w &&& q.mask = q.bits := of_decide_eq_true hq
  apply h
  rw [← hr, ← hq, BitVec.and_assoc, BitVec.and_assoc, BitVec.and_comm r.mask]

/-- Settles O4: any two of the 66 rows ask different bits where both masks look. -/
theorem opcodeRowsAreDisjoint : Obligations.OpcodeRowsAreDisjoint := by
  refine ⟨by decide, List.Pairwise.imp (fun h w => not_spells_both h w) ?_⟩
  decide

/-! ### A word that a row spells is read -/

/-- A field under a row's mask is the row's own: here the major opcode. -/
theorem opcodeField_of_spells {r : OpcodeRow} {w : Word32} (h : r.spells w = true) (hm : opcodeField r.mask = 0b111111#6) :
    opcodeField w = opcodeField r.bits := by
  rw [← of_decide_eq_true h, opcodeField, opcodeField, BitVec.extractLsb'_and, ← opcodeField, ← opcodeField, hm, and_ones6]

theorem functField_of_spells {r : OpcodeRow} {w : Word32} (h : r.spells w = true) (hm : functField r.mask = 0b111111#6) :
    functField w = functField r.bits := by
  rw [← of_decide_eq_true h, functField, functField, BitVec.extractLsb'_and, ← functField, ← functField, hm, and_ones6]

/-- The row fixes the 5-bit field from bit `k` on to the value `v`. -/
abbrev FixesField (r : OpcodeRow) (k : Nat) (v : Fin 32) : Prop :=
  r.mask.extractLsb' k 5 = 0b11111#5 ∧ (r.bits.extractLsb' k 5).toFin = v

theorem field_of_spells {r : OpcodeRow} {w : Word32} {k : Nat} {v : Fin 32} (h : r.spells w = true)
    (hr : FixesField r k v) : (w.extractLsb' k 5).toFin = v := by
  obtain ⟨hm, hb⟩ := hr
  rw [← hb, ← of_decide_eq_true h, BitVec.extractLsb'_and, hm, and_ones5]

/-- The function codes of the shifts by a constant, which leave `rs` unused (R57, R60). -/
def constantShiftCodes : List (BitVec 6) := [0b000000, 0b000010, 0b000011, 0b111000, 0b111010, 0b111011]

/-- The function codes of the multiplies and divides, which leave `rd` and `sa` unused. -/
def multiplyDivideCodes : List (BitVec 6) :=
  [0b011000, 0b011001, 0b011010, 0b011011, 0b011100, 0b011101, 0b011110, 0b011111]

/-- The function codes of the instructions of three registers, which leave `sa` unused. -/
def threeRegisterCodes : List (BitVec 6) :=
  [0b000100, 0b000110, 0b000111, 0b001010, 0b001011, 0b010100, 0b010110, 0b010111, 0b100000, 0b100001, 0b100010, 0b100011,
    0b100100, 0b100101, 0b100110, 0b101010, 0b101011, 0b101100, 0b101101, 0b101110, 0b101111]

/-- The function codes of MFHI and MFLO, which use `rd` alone. -/
def moveCodes : List (BitVec 6) := [0b010000, 0b010010]

/-- The function codes of JR and JALR, which leave `rt` and `sa` unused. -/
def registerJumpCodes : List (BitVec 6) := [0b001000, 0b001001]

/-- The major opcodes of R56. -/
def majorOpcodes : List (BitVec 6) :=
  [0b000000, 0b000001, 0b000010, 0b000011, 0b000100, 0b000101, 0b001000, 0b001001, 0b001010, 0b001011, 0b001100, 0b001101,
    0b001110, 0b001111, 0b011000, 0b011001, 0b100000, 0b100001, 0b100011, 0b100100, 0b100101, 0b100111, 0b101000, 0b101001,
    0b101011, 0b110111, 0b111111]

/-- The rows of major opcode 000000 fix the function code and every field that their instruction does not use. -/
theorem special_row_fixes : ∀ r ∈ coreRows, opcodeField r.bits = 0 → functField r.mask = 0b111111#6 ∧
    functField r.bits ∈ constantShiftCodes ++ multiplyDivideCodes ++ threeRegisterCodes ++ moveCodes ++ registerJumpCodes ∧
    (functField r.bits ∈ constantShiftCodes ++ moveCodes → FixesField r 21 0) ∧
    (functField r.bits ∈ moveCodes ++ registerJumpCodes → FixesField r 16 0) ∧
    (functField r.bits ∈ 0b001000 :: multiplyDivideCodes → FixesField r 11 0) ∧
    (functField r.bits ∉ constantShiftCodes → FixesField r 6 0) := by
  decide

/-- Every row fixes the major opcode; BGEZ's fixes `rt` to 1, and LUI's fixes its unused `rs`. -/
theorem core_row_fixes : ∀ r ∈ coreRows, opcodeField r.mask = 0b111111#6 ∧ opcodeField r.bits ∈ majorOpcodes ∧
    (opcodeField r.bits = 0b000001 → FixesField r 16 1) ∧ (opcodeField r.bits = 0b001111 → FixesField r 21 0) := by
  decide

section Spelled
variable {r : OpcodeRow} {w : Word32}

/-- What the row fixes holds of every word that it spells. -/
theorem special_word_fields (hr : r ∈ coreRows) (h : r.spells w = true) (hop : opcodeField r.bits = 0) :
    functField w ∈ constantShiftCodes ++ multiplyDivideCodes ++ threeRegisterCodes ++ moveCodes ++ registerJumpCodes ∧
    (functField w ∈ constantShiftCodes ++ moveCodes → rsField w = 0) ∧
    (functField w ∈ moveCodes ++ registerJumpCodes → rtField w = 0) ∧
    (functField w ∈ 0b001000 :: multiplyDivideCodes → rdField w = 0) ∧
    (functField w ∉ constantShiftCodes → saField w = 0) := by
  obtain ⟨hm, hf, hrs, hrt, hrd, hsa⟩ := special_row_fixes r hr hop
  rw [functField_of_spells h hm]
  exact ⟨hf, fun hc => field_of_spells h (hrs hc), fun hc => field_of_spells h (hrt hc),
    fun hc => field_of_spells h (hrd hc), fun hc => field_of_spells h (hsa hc)⟩

theorem decodeSpecial_ne_none (hr : r ∈ coreRows) (h : r.spells w = true) (hop : opcodeField r.bits = 0) :
    decodeSpecial true w ≠ none := by
  obtain ⟨hcodes, hrs, hrt, hrd, hsa⟩ := special_word_fields hr h hop
  simp only [constantShiftCodes, multiplyDivideCodes, threeRegisterCodes, moveCodes, registerJumpCodes]
    at hcodes hrs hrt hrd hsa
  intro hnone
  unfold decodeSpecial at hnone
  split at hnone
  case h_40 => simp_all
  all_goals
    rename_i hf
    simp [hf] at hrs hrt hrd hsa
    simp [unused, *] at hnone

/-- Strict decode reads every word that a row spells: the row fixes what the decoder looks at. -/
theorem decodeRow_ne_none (hr : r ∈ coreRows) (h : r.spells w = true) : decodeRow true w ≠ none := by
  obtain ⟨hm, hcodes, hrt, hrs⟩ := core_row_fixes r hr
  have hop := opcodeField_of_spells h hm
  intro hnone
  unfold decodeRow at hnone
  split at hnone
  case h_1 hzero => exact decodeSpecial_ne_none hr h (hop.symm.trans hzero) hnone
  case h_2 hone =>
    have hrt : rtField w = 1 := field_of_spells h (hrt (hop.symm.trans hone))
    simp [hrt] at hnone
  case h_14 hlui =>
    have hrs : rsField w = 0 := field_of_spells h (hrs (hop.symm.trans hlui))
    simp [hrs] at hnone
  case h_28 =>
    rw [← hop] at hcodes
    simp_all [majorOpcodes]
  all_goals cases hnone

end Spelled

/-! ### The row of a core instruction -/

open Sys2Proof.Laws in
/-- Every instruction's word is spelled by the row of its mnemonic. -/
theorem spelling (i : Instr) : Spelling.Statement i := by
  cases i with
  | add rd rs rt => exact Spelling.add rd rs rt
  | addi rt rs imm => exact Spelling.addi rt rs imm
  | addu rd rs rt => exact Spelling.addu rd rs rt
  | addiu rt rs imm => exact Spelling.addiu rt rs imm
  | dadd rd rs rt => exact Spelling.dadd rd rs rt
  | daddi rt rs imm => exact Spelling.daddi rt rs imm
  | daddu rd rs rt => exact Spelling.daddu rd rs rt
  | daddiu rt rs imm => exact Spelling.daddiu rt rs imm
  | sub rd rs rt => exact Spelling.sub rd rs rt
  | subu rd rs rt => exact Spelling.subu rd rs rt
  | dsub rd rs rt => exact Spelling.dsub rd rs rt
  | dsubu rd rs rt => exact Spelling.dsubu rd rs rt
  | and rd rs rt => exact Spelling.and rd rs rt
  | andi rt rs imm => exact Spelling.andi rt rs imm
  | or rd rs rt => exact Spelling.or rd rs rt
  | ori rt rs imm => exact Spelling.ori rt rs imm
  | xor rd rs rt => exact Spelling.xor rd rs rt
  | xori rt rs imm => exact Spelling.xori rt rs imm
  | lui rt imm => exact Spelling.lui rt imm
  | sll rd rt sa => exact Spelling.sll rd rt sa
  | sllv rd rt rs => exact Spelling.sllv rd rt rs
  | srl rd rt sa => exact Spelling.srl rd rt sa
  | srlv rd rt rs => exact Spelling.srlv rd rt rs
  | sra rd rt sa => exact Spelling.sra rd rt sa
  | srav rd rt rs => exact Spelling.srav rd rt rs
  | dsll rd rt sa => exact Spelling.dsll rd rt sa
  | dsllv rd rt rs => exact Spelling.dsllv rd rt rs
  | dsrl rd rt sa => exact Spelling.dsrl rd rt sa
  | dsrlv rd rt rs => exact Spelling.dsrlv rd rt rs
  | dsra rd rt sa => exact Spelling.dsra rd rt sa
  | dsrav rd rt rs => exact Spelling.dsrav rd rt rs
  | slt rd rs rt => exact Spelling.slt rd rs rt
  | slti rt rs imm => exact Spelling.slti rt rs imm
  | sltiu rt rs imm => exact Spelling.sltiu rt rs imm
  | sltu rd rs rt => exact Spelling.sltu rd rs rt
  | movn rd rs rt => exact Spelling.movn rd rs rt
  | movz rd rs rt => exact Spelling.movz rd rs rt
  | mult rs rt => exact Spelling.mult rs rt
  | multu rs rt => exact Spelling.multu rs rt
  | dmult rs rt => exact Spelling.dmult rs rt
  | dmultu rs rt => exact Spelling.dmultu rs rt
  | div rs rt => exact Spelling.div rs rt
  | divu rs rt => exact Spelling.divu rs rt
  | ddiv rs rt => exact Spelling.ddiv rs rt
  | ddivu rs rt => exact Spelling.ddivu rs rt
  | mfhi rd => exact Spelling.mfhi rd
  | mflo rd => exact Spelling.mflo rd
  | b offset => exact Spelling.b offset
  | beq rs rt offset => exact Spelling.beq rs rt offset
  | beqz rs offset => exact Spelling.beqz rs offset
  | bgez rs offset => exact Spelling.bgez rs offset
  | bne rs rt offset => exact Spelling.bne rs rt offset
  | bnez rs offset => exact Spelling.bnez rs offset
  | j index => exact Spelling.j index
  | jal index => exact Spelling.jal index
  | jalr rd rs => exact Spelling.jalr rd rs
  | jr rs => exact Spelling.jr rs
  | lb rt offset base => exact Spelling.lb rt offset base
  | lbu rt offset base => exact Spelling.lbu rt offset base
  | ld rt offset base => exact Spelling.ld rt offset base
  | lh rt offset base => exact Spelling.lh rt offset base
  | lhu rt offset base => exact Spelling.lhu rt offset base
  | lw rt offset base => exact Spelling.lw rt offset base
  | lwu rt offset base => exact Spelling.lwu rt offset base
  | sw rt offset base => exact Spelling.sw rt offset base
  | sb rt offset base => exact Spelling.sb rt offset base
  | sd rt offset base => exact Spelling.sd rt offset base
  | sh rt offset base => exact Spelling.sh rt offset base
  | halt => exact Spelling.halt
  | nop => exact Spelling.nop

/-- The names of the idioms and of HALT are those of their mnemonics alone. -/
theorem name_of_core_mnemonic : ∀ e ∈ mnemonicNames, e.2 ∉ [Mnemonic.b, .beqz, .bnez, .nop, .halt] →
    e.1 ∉ ["B", "BEQZ", "BNEZ", "NOP", "HALT"] := by
  decide

theorem isCore_of_name : ∀ r ∈ opcodeTable, r.mnemonic ∉ ["B", "BEQZ", "BNEZ", "NOP", "HALT"] →
    (!r.idiom && r.mnemonic != "HALT") = true := by
  decide

/-- A word that strict decode reads is spelled by the row of the instruction. -/
theorem exists_coreRow_spells {w : Word32} {i : Instr} (h : decodeRow true w = some i) :
    ∃ r ∈ coreRows, (r.mnemonic, i.line.mnemonic) ∈ mnemonicNames ∧ r.spells w = true := by
  obtain ⟨henc, hcore, hhalt⟩ := decodeRow_readFrom h
  obtain ⟨r, hr, hname, hspells⟩ := spelling i
  rw [henc] at hspells
  refine ⟨r, List.mem_filter.2 ⟨hr, isCore_of_name r hr (name_of_core_mnemonic _ hname ?_)⟩, hname, hspells⟩
  cases i with
  | b | beqz | bnez | nop => cases hcore
  | halt => exact absurd rfl hhalt
  | _ => simp [Instr.line]

/-- No word is spelled by two core rows. -/
theorem coreRow_unique {w : Word32} {r q : OpcodeRow} (hr : r ∈ coreRows) (hq : q ∈ coreRows) (hrw : r.spells w = true)
    (hqw : q.spells w = true) : r = q := by
  have hsymm : Std.Symm fun r q : OpcodeRow => ∀ w : Word32, ¬ (r.spells w = true ∧ q.spells w = true) :=
    ⟨fun _ _ h w hw => h w hw.symm⟩
  have hmem : ∀ r ∈ coreRows, r ∈ opcodeTable.filter (fun r => !r.idiom) := fun r hr => by
    have hr := List.mem_filter.1 hr
    exact List.mem_filter.2 ⟨hr.1, (Bool.and_eq_true_iff.1 hr.2).1⟩
  by_contra hne
  exact opcodeRowsAreDisjoint.2.forall (hmem r hr) (hmem q hq) hne w ⟨hrw, hqw⟩

/-- Settles O3: a word that a core row spells is read, as an instruction whose row spells the word too and is therefore that row;
and a word that is read is spelled by its instruction's row. -/
theorem decodeFollowsOpcodeTable : Obligations.DecodeFollowsOpcodeTable := by
  intro p hstrict
  refine ⟨if_pos rfl, fun w hw => ?_⟩
  have hdecode : decode p w = decodeRow true w := by rw [decode, if_neg hw, hstrict]
  rw [hdecode]
  refine ⟨fun r hr hspells => ?_, fun hnone => ?_⟩
  · obtain ⟨i, hi⟩ := Option.ne_none_iff_exists'.1 (decodeRow_ne_none hr hspells)
    obtain ⟨q, hq, hname, hqspells⟩ := exists_coreRow_spells hi
    exact ⟨i, hi, coreRow_unique hr hq hspells hqspells ▸ hname⟩
  · by_contra hsome
    obtain ⟨i, hi⟩ := Option.ne_none_iff_exists'.1 hsome
    obtain ⟨q, hq, -, hqspells⟩ := exists_coreRow_spells hi
    exact Bool.noConfusion ((hnone q hq).symm.trans hqspells)

/-- Settles O5: the eleven words are closed terms, and the decoder is evaluated on each. -/
theorem writtenOutWordsDecode : Obligations.WrittenOutWordsDecode := by
  unfold Obligations.WrittenOutWordsDecode
  decide

end Sys2Proof.Machine

/-! PROOFS. The idioms (spec/30_encoding.md R64), NOP and HALT (spec/47_halt_nop.md R220, R221): an idiom does what the
instruction does whose word it has. -/

namespace Sys2Proof.Machine

/-- Settles O6: register 0 equals itself and reads 0, so B and the branches on zero test what BEQ and BNE test, and a write to
register 0 is discarded, so SLL r0, r0, 0 only advances the pc. -/
theorem idiomActsAsItsExpansion : Obligations.IdiomActsAsItsExpansion := by
  intro i s
  cases i with
  | b offset =>
    have hself : decide (s.reg 0 = s.reg 0) = true := decide_eq_true rfl
    exact congrArg (fun taken => branch taken (s.branchTarget offset) s) hself.symm
  | _ => rfl

/-- Settles O56: the end of a run sets the run status alone. -/
theorem haltEndsTheRunWhereItStands : Obligations.HaltEndsTheRunWhereItStands := fun s => endRun_eq s

/-- Settles O57: NOP completes with nothing written; its word is that of SLL r0, r0, 0, a core instruction, which is read back. -/
theorem nopOnlyAdvancesThePc : Obligations.NopOnlyAdvancesThePc := by
  intro s p
  have hword : encode p .nop = 0 := show rWord 0 0 0 0 0 = 0 by decide
  refine ⟨complete_eq s, hword, fun hhalt => ?_⟩
  rw [decode, if_neg hhalt.symm, ← hword, ← encode_expand]
  exact decodeRow_encode _ p _ rfl (by simp)

end Sys2Proof.Machine

/-! PROOFS. A step (spec/70_reset_and_hazards.md R405): what is fetched decides whether the step is an instruction or a trap, and
only a running state has one. -/

namespace Sys2Proof.Machine

open Sys2Proof.Claims

/-- The trapped state of the statements is the one that `raise` answers. -/
theorem trappedAt_eq (s : State) (e : Trap) : trappedAt s e = s.setStatus (.fault e) := rfl

theorem step_of_decoded {s : State} {w : Word32} {i : Instr} (hs : s.status = .running) (hf : s.fetch = some w)
    (hd : decode s.params w = some i) : step s = exec i s := by
  rw [step_running s hs]
  simp only [cycle, hf, hd]

theorem step_of_reserved {s : State} {w : Word32} (hs : s.status = .running) (hf : s.fetch = some w)
    (hd : decode s.params w = none) : step s = .next (trappedAt s (.reservedInstruction w)) := by
  rw [step_running s hs]
  simp only [cycle, hf, hd, raise_eq, trappedAt_eq]

theorem step_of_no_fetch {s : State} (hs : s.status = .running) (hf : s.fetch = none) :
    step s = .next (trappedAt s (.addressError .fetch s.pc)) := by
  rw [step_running s hs]
  simp only [cycle, hf, raise_eq, trappedAt_eq]

/-- Settles O10: the four conditions are those of a fetch. -/
theorem stepRunsDecodedInstruction : Obligations.StepRunsDecodedInstruction := fun s w _ hs halign hbase hcode hd =>
  step_of_decoded hs ((fetch_eq_some_iff s w).2 ⟨halign, hbase, hcode⟩) hd

/-- Settles O12: the word is fetched and decoded to nothing. -/
theorem reservedWordTraps : Obligations.ReservedWordTraps := fun s w hs halign hbase hcode hd =>
  step_of_reserved hs ((fetch_eq_some_iff s w).2 ⟨halign, hbase, hcode⟩) hd

/-- Settles O11: at each of the three bad pcs nothing is fetched. -/
theorem badPcTrapsAtFetch : Obligations.BadPcTrapsAtFetch := by
  intro s hs hbad
  refine step_of_no_fetch hs ((fetch_eq_none_iff s).2 ?_)
  rcases hbad with halign | hbelow | hbeyond
  · exact .inl halign
  · exact .inr (.inl hbelow)
  · exact .inr (.inr (by omega))

/-- Settles O13: a running state steps, and a state that steps is running. -/
theorem exactlyRunningStatesStep : Obligations.ExactlyRunningStatesStep := fun s =>
  ⟨fun ⟨t, ht⟩ => (step_effect s t ht).1, fun hs => (step_of_running s hs).imp fun _ ht => ht.1⟩

/-- No program is loaded at reset, so a placed word becomes the program (log 6). -/
theorem reset_withFetchWord (nbits w : Nat) :
    State.reset.withFetchWord nbits w = { State.reset with code := [BitVec.ofNat 32 (w % 2 ^ nbits)] } := rfl

theorem fetch_reset_withFetchWord (nbits w : Nat) :
    (State.reset.withFetchWord nbits w).fetch = some (BitVec.ofNat 32 (w % 2 ^ nbits)) := by
  rw [reset_withFetchWord, fetch_eq_some_iff]
  refine ⟨show defaultParams.codeBase.toNat % 4 = 0 by decide, Nat.le_refl _, ?_⟩
  rw [show State.reset.pc = State.reset.params.codeBase from rfl, Nat.sub_self]
  rfl

/-- Settles O14: the placed word is fetched, and decoding does not read RESET_REGS, in which alone the parameters of the reset state
differ from the defaults. -/
theorem placedWordRunsFirst : Obligations.PlacedWordRunsFirst := fun w _ hd =>
  step_of_decoded rfl (fetch_reset_withFetchWord 32 w) hd

/-- Settles O15: register 0 reads 0 in every state, and the other two fields are set so at reset. -/
theorem resetLeavesPcAtCodeBaseAndRunning : Obligations.ResetLeavesPcAtCodeBaseAndRunning :=
  ⟨State.reg_zero _, rfl, rfl⟩

/-! ### What every step keeps -/

/-- The nine shapes keep the invariant: register 0's place is never written, and a store lists only bytes of its access, which is
inside data memory (R11, R32). -/
theorem Effect.inv {s t : State} (he : Effect s t) (hs : s.Inv) : t.Inv := by
  obtain ⟨hzero, hwf, hinside⟩ := hs
  cases he with
  | wroteRegister r v => exact ⟨(State.setReg_zero_place s r v).trans hzero, hwf, hinside⟩
  | called r target => exact ⟨(State.setReg_zero_place s r _).trans hzero, hwf, hinside⟩
  | stored addr n v haccess =>
    refine ⟨hzero, Memory.storeValue_wf _ _ _ _ _ hwf, fun c hc => ?_⟩
    rcases Memory.storeValue_addresses _ _ _ _ v hwf c hc with ⟨-, hlt⟩ | ⟨d, hd, hdc⟩
    · exact Nat.lt_of_lt_of_le hlt ((accessOk_iff _ _ _).1 haccess).2
    · exact hdc ▸ hinside d hd
  | passed | wroteHiLo | drewHiLo | went | trapped | ended => exact ⟨hzero, hwf, hinside⟩

/-- The nine shapes keep the program and the parameters (R19, R41). -/
theorem Effect.code_params {s t : State} (he : Effect s t) : t.code = s.code ∧ t.params = s.params := by
  cases he <;> exact ⟨rfl, rfl⟩

/-- Of the nine shapes only a trap changes the status to a fault. -/
theorem Effect.eq_trappedAt {s t : State} {e : Trap} (he : Effect s t) (hs : s.status = .running)
    (ht : t.status = .fault e) : t = trappedAt s e := by
  cases he with
  | trapped e' => cases ht; rfl
  | ended => cases ht
  | wroteRegister | passed | wroteHiLo | drewHiLo | went | called | stored => cases hs.symm.trans ht

/-- Settles O21: a step has one of the nine shapes, and each keeps the invariant. -/
theorem stepKeepsTheInvariant : Obligations.StepKeepsTheInvariant := fun s t hs ht =>
  (step_effect s t ht).2.inv hs

/-- Settles O23: none of the nine shapes writes the program or the parameters. -/
theorem stepKeepsProgramAndParameters : Obligations.StepKeepsProgramAndParameters := fun s t ht =>
  (step_effect s t ht).2.code_params

/-- Settles O30: a step starts from a running state, so one that ends in a fault has the shape of a trap. -/
theorem trapsChangeOnlyTheStatus : Obligations.TrapsChangeOnlyTheStatus := fun s t _ ht hfault =>
  have ⟨hs, he⟩ := step_effect s t ht
  he.eq_trappedAt hs hfault

/-- Settles O20: at reset every register is 0 and no byte is listed. -/
theorem resetMeetsTheInvariant : Obligations.ResetMeetsTheInvariant where
  zeroReg := by decide
  memWf := by decide
  memInside _ hc := absurd hc List.not_mem_nil

end Sys2Proof.Machine

/-! PROOFS. Runs (spec/10_state.md R20, spec/60_exceptions.md R304) and their start (spec/70_reset_and_hazards.md R400 to R402): a
run stays where it has ended, and a launch builds the state that the host supplies, which meets the invariant. -/

namespace Sys2Proof.Machine

open Sys2Proof.Claims

/-! ### Runs -/

theorem runFor_succ_of_step {s t : State} (n : Nat) (h : step s = .next t) : runFor (n + 1) s = runFor n t := by
  simp only [runFor, h]

theorem runFor_of_ended {s : State} (hs : s.status ≠ .running) (n : Nat) : runFor n s = s := by
  cases n with
  | zero => rfl
  | succ n =>
    cases h : step s with
    | next t => exact absurd h (step_ne_next_of_not_running hs t)
    | fault r => simp only [runFor, h]
    | refused r => simp only [runFor, h]

theorem runFor_add (n m : Nat) (s : State) : runFor (n + m) s = runFor m (runFor n s) := by
  induction n generalizing s with
  | zero => rw [Nat.zero_add]; rfl
  | succ n ih =>
    by_cases hs : s.status = .running
    · obtain ⟨t, ht, -⟩ := step_of_running s hs
      rw [Nat.succ_add, runFor_succ_of_step _ ht, runFor_succ_of_step _ ht, ih]
    · rw [runFor_of_ended hs, runFor_of_ended hs, runFor_of_ended hs]

/-- What every step keeps holds of every state of a run. -/
theorem runFor_induction {P : State → Prop} (hstep : ∀ s t, P s → step s = .next t → P t) (n : Nat) {s : State} (hs : P s) :
    P (runFor n s) := by
  induction n generalizing s with
  | zero => exact hs
  | succ n ih =>
    by_cases hrun : s.status = .running
    · obtain ⟨t, ht, -⟩ := step_of_running s hrun
      rw [runFor_succ_of_step n ht]
      exact ih (hstep s t hs ht)
    · rw [runFor_of_ended hrun]
      exact hs

/-- Settles O17: the steps beyond the end are steps of a state that has none. -/
theorem endedRunStaysEnded : Obligations.EndedRunStaysEnded := by
  intro s n m hend hle
  obtain ⟨k, rfl⟩ := Nat.exists_eq_add_of_le hle
  rw [runFor_add, runFor_of_ended hend]

theorem trapped_iff (s : State) : s.trapped = true ↔ ∃ e, s.status = .fault e := by
  cases h : s.status <;> simp [State.trapped, h]

/-- Settles O18: a run that had trapped would have stayed in that trap. -/
theorem goodEndMeansNoTrap : Obligations.GoodEndMeansNoTrap := by
  intro s n hend k hk
  by_contra htrap
  obtain ⟨e, he⟩ := (trapped_iff _).1 (by simpa using htrap)
  have hhalted : (runFor n s).status = .halted := of_decide_eq_true hend
  rw [endedRunStaysEnded s k n (by simp [he]) hk, he] at hhalted
  cases hhalted

/-! ### The start of a run -/

/-- The statements write what the host does not supply as the model does. -/
theorem startValue_eq (l : LaunchState) (k : Nat) : startValue l k = l.unsupplied k := by
  unfold startValue
  cases h : l.params.resetRegs with
  | zero => rw [l.unsupplied_zero k h]; rfl
  | unspecified => rw [l.unsupplied_unspecified k h]; rfl

theorem nextDraw_eq (l : LaunchState) :
    l.nextDraw = l.firstDraw + (if l.params.resetRegs = .zero then 0 else 34 + l.params.dataMemBytes) := by
  cases h : l.params.resetRegs <;> simp [LaunchState.nextDraw, h]

theorem allowed_iff (l : LaunchState) : l.allowed = true ↔
    l.params.wellFormed = true ∧ (∀ c ∈ l.image, c.1 < l.params.dataMemBytes) ∧ ∀ e ∈ l.regs, e.1 = 0 → e.2 = 0 := by
  simp only [LaunchState.allowed, Bool.and_eq_true, List.all_eq_true, decide_eq_true_eq, and_assoc]

/-- The state of a launch before the host's register values (R400 steps 1 to 5). -/
def LaunchState.base (l : LaunchState) : State where
  params := l.params
  code := l.program
  regs := l.startRegs
  hi := l.hi.getD (l.unsupplied 32)
  lo := l.lo.getD (l.unsupplied 33)
  pc := l.params.codeBase
  mem := Memory.writeAll l.startMem l.image
  status := .running
  draws := l.nextDraw

theorem launch_eq (l : LaunchState) : launch l = if l.allowed then some (l.base.setRegs l.regs) else none := rfl

theorem launch_isSome (l : LaunchState) : (launch l).isSome = l.allowed := by
  rw [launch_eq]
  cases l.allowed <;> rfl

theorem launch_eq_some {l : LaunchState} {s : State} (h : launch l = some s) :
    l.allowed = true ∧ s = l.base.setRegs l.regs := by
  rw [launch_eq] at h
  split at h
  · rename_i hallowed
    exact ⟨hallowed, (Option.some.inj h).symm⟩
  · cases h

theorem base_reg (l : LaunchState) (r : Reg) (hr : r ≠ 0) : l.base.reg r = startValue l r.val := by
  rw [startValue_eq, State.reg, if_neg hr]
  exact (l.startRegs_get r).trans (if_neg hr)

/-- A byte of data memory is the host's last one for its address, or else the low byte of its place. -/
theorem base_read (l : LaunchState) {a : Nat} (ha : a < l.params.dataMemBytes) : l.base.mem.read a =
    ((l.image.reverse.find? (fun c => c.1 == a)).map (·.2)).getD ((startValue l (34 + a)).setWidth 8) := by
  obtain ⟨hwf, hread, -⟩ := l.startMem_spec
  obtain ⟨-, himage, -⟩ := Memory.writeAll_spec l.startMem l.image hwf
  rw [startValue_eq, BitVec.setWidth_eq_extractLsb' (by decide), ← hread a ha]
  exact himage a

theorem base_inv (l : LaunchState) (himage : ∀ c ∈ l.image, c.1 < l.params.dataMemBytes) : l.base.Inv := by
  obtain ⟨hwf, -, hinside⟩ := l.startMem_spec
  obtain ⟨hwf', -, hlisted⟩ := Memory.writeAll_spec l.startMem l.image hwf
  refine ⟨l.startRegs_get 0, hwf', fun c hc => ?_⟩
  rcases hlisted c hc with ⟨d, hd, hdc⟩ | ⟨d, hd, hdc⟩
  · exact hdc ▸ hinside d hd
  · exact hdc ▸ himage d hd

theorem setRegs_inv {s : State} (vs : List (Reg × Word)) (hs : s.Inv) : (s.setRegs vs).Inv := by
  rw [State.setRegs_frame]
  exact ⟨(State.setRegs_reg s vs).1.trans hs.zeroReg, hs.memWf, hs.memInside⟩

/-- Settles O16: the rules of the launch are its check, and the state is the base of the launch with the host's register values
written over it, which change the registers alone. -/
theorem launchBuildsTheStateTheHostSupplies : Obligations.LaunchBuildsTheStateTheHostSupplies := by
  intro l
  refine ⟨by rw [launch_isSome, allowed_iff], fun s hs => ?_⟩
  obtain ⟨hallowed, rfl⟩ := launch_eq_some hs
  obtain ⟨-, himage, -⟩ := (allowed_iff l).1 hallowed
  have hreg := (State.setRegs_reg l.base l.regs).2
  have hinv := setRegs_inv l.regs (base_inv l himage)
  rw [startValue_eq, startValue_eq, ← nextDraw_eq]
  rw [State.setRegs_frame] at hreg hinv ⊢
  exact ⟨rfl, rfl, rfl, rfl, rfl, rfl, rfl, hinv, rfl, fun r hr => (hreg r hr).trans (by rw [base_reg l r hr]),
    fun a ha => base_read l ha⟩

/-- Settles O22: the launched state meets the invariant, and every step keeps it. -/
theorem launchedRunsKeepTheInvariant : Obligations.LaunchedRunsKeepTheInvariant := by
  intro l s n hs
  obtain ⟨hallowed, rfl⟩ := launch_eq_some hs
  obtain ⟨-, himage, -⟩ := (allowed_iff l).1 hallowed
  exact runFor_induction stepKeepsTheInvariant n (setRegs_inv l.regs (base_inv l himage))

end Sys2Proof.Machine

/-! PROOFS. What only some instructions do (spec/10_state.md R11, R13, R16, R19; spec/47_halt_nop.md R222): each of the nine shapes
of a next state, with the instructions that can have it. The frames of the general registers, of data memory, of the pc's alignment
and of the run status all follow from this one case split. -/

namespace Sys2Proof.Machine

open Sys2Proof.Claims

/-! ### Good and bad accesses (R31, R32) -/

section Access
variable {n : Nat} {base : Reg} {offset : Imm16} {s : State}

theorem load_of_accessOk (ext : BitVec (8 * n) → Word) (rt : Reg) (h : accessOk s.params (s.effAddr base offset) n = true) :
    load n ext rt base offset s =
      writeBack rt (ext (s.mem.loadValue s.params.endian (s.effAddr base offset).toNat n)) s :=
  ((load_cases n ext rt base offset s).resolve_right fun hbad => Bool.noConfusion (h.symm.trans hbad.1)).2

theorem load_of_not_accessOk (ext : BitVec (8 * n) → Word) (rt : Reg)
    (h : accessOk s.params (s.effAddr base offset) n = false) :
    load n ext rt base offset s = .next (trappedAt s (.addressError .load (s.effAddr base offset))) :=
  ((load_cases n ext rt base offset s).resolve_left fun hok => Bool.noConfusion (h.symm.trans hok.1)).2

theorem store_of_accessOk (rt : Reg) (h : accessOk s.params (s.effAddr base offset) n = true) :
    store n rt base offset s = complete (s.setMem
      (s.mem.storeValue s.params.endian (s.effAddr base offset).toNat n ((s.reg rt).setWidth (8 * n)))) :=
  ((store_cases n rt base offset s).resolve_right fun hbad => Bool.noConfusion (h.symm.trans hbad.1)).2

theorem store_of_not_accessOk (rt : Reg) (h : accessOk s.params (s.effAddr base offset) n = false) :
    store n rt base offset s = .next (trappedAt s (.addressError .store (s.effAddr base offset))) :=
  ((store_cases n rt base offset s).resolve_left fun hok => Bool.noConfusion (h.symm.trans hok.1)).2

end Access

/-! ### Which instruction has which effect -/

/-- The instruction is JR or JALR, which take their target from a register. -/
def IsRegisterJump (i : Instr) : Prop := (∃ rs, i = .jr rs) ∨ ∃ rd rs, i = .jalr rd rs

/-- The pc `target` is one that only JR and JALR make misaligned from the aligned pc of `s`. -/
def TargetFor (i : Instr) (s : State) (target : Word) : Prop :=
  IsRegisterJump i ∨ (s.pc.toNat % 4 = 0 → target.toNat % 4 = 0)

/-- What the instruction `i` can do in the state `s`. -/
inductive Does (i : Instr) (s : State) : State → Prop where
  | wroteRegister (r : Reg) (v : Word) (h : destination i = some r) : Does i s (s.setReg r v).advance
  | passed : Does i s s.advance
  | wroteHiLo (hi lo : Word) : Does i s ((s.setHi hi).setLo lo).advance
  | drewHiLo (hi lo : Word) : Does i s (((s.drawn 2).setHi hi).setLo lo).advance
  | went (target : Word) (h : TargetFor i s target) : Does i s (s.setPc target)
  | called (r : Reg) (target : Word) (hr : destination i = some r) (h : TargetFor i s target) :
      Does i s ((s.setReg r (s.pc + 4)).setPc target)
  | stored (m : Memory) (h : storeForm i ≠ none) : Does i s (s.setMem m).advance
  | overflowed (h : exactResult s i ≠ none) : Does i s (s.setStatus (.fault .integerOverflow))
  | badAddress (kind : AccessKind) (addr : Word) : Does i s (s.setStatus (.fault (.addressError kind addr)))
  | ended (h : i = .halt) : Does i s (s.setStatus .halted)

/-- The outcome is a next state to which the instruction can lead. -/
def Performs (i : Instr) (s : State) (o : Result) : Prop := ∃ t, o = .next t ∧ Does i s t

section Performs
variable {i : Instr} {s : State}

theorem Performs.ite {c : Prop} [Decidable c] {o o' : Result} (h : Performs i s o) (h' : Performs i s o') :
    Performs i s (if c then o else o') := by
  split
  · exact h
  · exact h'

theorem writeBack_performs {r : Reg} (v : Word) (h : destination i = some r) : Performs i s (writeBack r v s) :=
  ⟨_, rfl, .wroteRegister r v h⟩

theorem writeOrTrap_performs {r : Reg} (v : Option Word) (h : destination i = some r) (hx : exactResult s i ≠ none) :
    Performs i s (writeOrTrap r v s) := by
  rcases writeOrTrap_cases r v s with ⟨w, -, ho⟩ | ⟨-, ho⟩
  · exact ⟨_, ho, .wroteRegister r w h⟩
  · exact ⟨_, ho, .overflowed hx⟩

theorem load_performs {n : Nat} (ext : BitVec (8 * n) → Word) {rt : Reg} (base : Reg) (offset : Imm16)
    (h : destination i = some rt) : Performs i s (load n ext rt base offset s) := by
  rcases load_cases n ext rt base offset s with ⟨-, ho⟩ | ⟨-, ho⟩
  · exact ⟨_, ho, .wroteRegister _ _ h⟩
  · exact ⟨_, ho, .badAddress _ _⟩

theorem store_performs (n : Nat) (rt base : Reg) (offset : Imm16) (h : storeForm i ≠ none) :
    Performs i s (store n rt base offset s) := by
  rcases store_cases n rt base offset s with ⟨-, ho⟩ | ⟨-, ho⟩
  · exact ⟨_, ho, .stored _ h⟩
  · exact ⟨_, ho, .badAddress _ _⟩

end Performs

/-! ### Targets of branches and jumps (R180, R181) -/

/-- Two zero bits below the field multiply its signed reading by 4. -/
theorem toInt_append_zero (offset : Imm16) : (offset ++ (0 : BitVec 2)).toInt = 4 * offset.toInt :=
  BitVec.toInt_append_zero

theorem ofInt_pc (pc : Word) (x : Int) : BitVec.ofInt 64 (pc.toNat + x) = pc + BitVec.ofInt 64 x := by
  rw [BitVec.ofInt_add, BitVec.ofInt_natCast, BitVec.ofNat_toNat, BitVec.setWidth_eq]

theorem branchTarget_eq (s : State) (offset : Imm16) : s.branchTarget offset = branchTo s offset := by
  unfold State.branchTarget branchTo BitVec.signExtend
  rw [toInt_append_zero, Int.add_assoc, ofInt_pc, BitVec.ofInt_add, ← BitVec.add_assoc]
  rfl

theorem jumpTarget_eq (s : State) (index : Index26) : s.jumpTarget index = regionTo s index := by
  unfold State.jumpTarget regionTo
  apply BitVec.eq_of_toNat_eq
  have hzero : (0 : BitVec 2).toNat = 0 := rfl
  simp only [toNat_append_add, BitVec.extractLsb'_toNat, BitVec.toNat_ofNat, Nat.shiftRight_eq_div_pow, hzero]
  omega

theorem add_four_aligned {pc : Word} (h : pc.toNat % 4 = 0) : (pc + 4).toNat % 4 = 0 := by
  have hadd : (pc + 4).toNat = (pc.toNat + 4) % 2 ^ 64 := BitVec.toNat_add pc 4
  omega

/-- The field of a branch counts instructions (R180). -/
theorem branchTarget_aligned {s : State} (offset : Imm16) (h : s.pc.toNat % 4 = 0) :
    (s.branchTarget offset).toNat % 4 = 0 := by
  rw [branchTarget_eq, branchTo, BitVec.toNat_ofInt]
  omega

/-- The index of a jump counts instructions (R181). -/
theorem jumpTarget_aligned (s : State) (index : Index26) : (s.jumpTarget index).toNat % 4 = 0 := by
  rw [jumpTarget_eq, regionTo, BitVec.toNat_ofNat]
  omega

theorem branch_performs (i : Instr) (s : State) (taken : Bool) (offset : Imm16) :
    Performs i s (branch taken (s.branchTarget offset) s) := by
  refine ⟨_, rfl, .went _ (.inr fun h => ?_)⟩
  cases taken with
  | true => exact branchTarget_aligned offset h
  | false => exact add_four_aligned h

/-- Every instruction answers a next state, and has the effect only if it is one of those that can have it. -/
theorem exec_performs (i : Instr) (s : State) : Performs i s (exec i s) := by
  cases i with
  | add | addi | dadd | daddi | sub | dsub => exact writeOrTrap_performs _ rfl (by simp [exactResult])
  | addu | addiu | daddu | daddiu | subu | dsubu => exact writeBack_performs _ rfl
  | and | andi | or | ori | xor | xori | lui => exact writeBack_performs _ rfl
  | sll | sllv | srl | srlv | sra | srav => exact writeBack_performs _ rfl
  | dsll | dsllv | dsrl | dsrlv | dsra | dsrav => exact writeBack_performs _ rfl
  | slt | slti | sltiu | sltu => exact writeBack_performs _ rfl
  | movn | movz => exact .ite (writeBack_performs _ rfl) ⟨_, rfl, .passed⟩
  | mult | multu | dmult | dmultu => exact ⟨_, rfl, .wroteHiLo _ _⟩
  | div | divu | ddiv | ddivu => exact .ite ⟨_, rfl, .drewHiLo _ _⟩ ⟨_, rfl, .wroteHiLo _ _⟩
  | mfhi | mflo => exact writeBack_performs _ rfl
  | b | beq | beqz | bgez | bne | bnez => exact branch_performs _ _ _ _
  | j index => exact ⟨_, rfl, .went _ (.inr fun _ => jumpTarget_aligned s index)⟩
  | jal index => exact ⟨_, rfl, .called _ _ rfl (.inr fun _ => jumpTarget_aligned s index)⟩
  | jalr rd rs => exact ⟨_, rfl, .called _ _ rfl (.inl (.inr ⟨rd, rs, rfl⟩))⟩
  | jr rs => exact ⟨_, rfl, .went _ (.inl (.inl ⟨rs, rfl⟩))⟩
  | lb | lbu | ld | lh | lhu | lw | lwu => exact load_performs _ _ _ rfl
  | sw | sb | sd | sh => exact store_performs _ _ _ _ (by simp [storeForm])
  | halt => exact ⟨_, rfl, .ended rfl⟩
  | nop => exact ⟨_, rfl, .passed⟩

theorem exec_does {i : Instr} {s t : State} (h : exec i s = .next t) : Does i s t := by
  obtain ⟨u, hu, hdoes⟩ := exec_performs i s
  rw [hu] at h
  cases h
  exact hdoes

/-! ### The frames -/

section Frames
variable {i : Instr} {s t : State}

theorem Does.reg_eq (h : Does i s t) (r : Reg) (hr : destination i ≠ some r) : t.reg r = s.reg r := by
  cases h with
  | wroteRegister q v hq | called q v hq => exact State.setReg_reg_other s q r _ fun e => hr (e ▸ hq)
  | passed | wroteHiLo | drewHiLo | went | stored | overflowed | badAddress | ended => rfl

theorem Does.mem_eq (h : Does i s t) (hi : storeForm i = none) : t.mem = s.mem := by
  cases h with
  | stored m hm => exact absurd hi hm
  | wroteRegister | passed | wroteHiLo | drewHiLo | went | called | overflowed | badAddress | ended => rfl

theorem Does.pc_aligned (h : Does i s t) (hi : ¬ IsRegisterJump i) (hs : s.pc.toNat % 4 = 0) : t.pc.toNat % 4 = 0 := by
  cases h with
  | wroteRegister | passed | wroteHiLo | drewHiLo | stored => exact add_four_aligned hs
  | went target ht => exact ht.resolve_left hi hs
  | called r target _ ht => exact ht.resolve_left hi hs
  | overflowed | badAddress | ended => exact hs

end Frames

/-- Settles O27: a register is written only as the destination that R13 lists, by a result or a link. -/
theorem onlyTheDestinationRegisterChanges : Obligations.OnlyTheDestinationRegisterChanges := fun _ _ t ht =>
  ⟨t.reg_zero, (exec_does ht).reg_eq⟩

/-- Settles O29: of the effects only a store's has another memory, and only the four stores have it. -/
theorem onlyStoresChangeMemory : Obligations.OnlyStoresChangeMemory := fun _ _ _ ht hi a =>
  congrArg (Memory.read · a) ((exec_does ht).mem_eq hi)

/-- Settles O25: the next address and the targets of the branches, J and JAL are multiples of 4 with the pc. -/
theorem onlyRegisterJumpsMisalignThePc : Obligations.OnlyRegisterJumpsMisalignThePc := by
  intro i s t ht hs hjr hjalr
  refine (exec_does ht).pc_aligned ?_ hs
  rintro (⟨rs, hi⟩ | ⟨rd, rs, hi⟩)
  · exact hjr rs hi
  · exact hjalr rd rs hi

/-- Settles O32: HALT ends the run, and of the effects only HALT's does. -/
theorem onlyHaltEndsTheRun : Obligations.OnlyHaltEndsTheRun := by
  intro i s t hs ht
  constructor
  · intro hhalted
    cases exec_does ht with
    | ended hi => exact hi
    | overflowed | badAddress => cases hhalted
    | wroteRegister | passed | wroteHiLo | drewHiLo | went | called | stored => cases hs.symm.trans hhalted
  · rintro rfl
    cases ht
    rfl

/-! ### The program (R19, R41, R43) -/

/-- The state with another program in place. -/
def State.withCode (s : State) (c : List Word32) : State := { s with code := c }

/-- The operation answers a next state, and with another program in place the same one with that program: it neither reads nor
writes the program. -/
def PassesCode (f : State → Result) : Prop :=
  ∀ s c, ∃ t, f s = .next t ∧ f (s.withCode c) = .next (t.withCode c)

theorem writeOrTrap_passesCode (r : Reg) (v : Option Word) : PassesCode (writeOrTrap r v) := by
  intro s c
  cases v with
  | some w => exact ⟨_, writeOrTrap_some r w s, writeOrTrap_some r w _⟩
  | none => exact ⟨_, writeOrTrap_none r s, writeOrTrap_none r _⟩

/-- A choice by a condition that is the same with another program in place. -/
theorem PassesCode.ite {cond : State → Prop} [∀ s, Decidable (cond s)] {f g : State → Result} (hf : PassesCode f)
    (hg : PassesCode g) (hcond : ∀ s c, cond (s.withCode c) ↔ cond s) :
    PassesCode fun s => if cond s then f s else g s := by
  intro s c
  by_cases h : cond s
  · simpa only [if_pos h, if_pos ((hcond s c).2 h)] using hf s c
  · simpa only [if_neg h, if_neg (mt (hcond s c).1 h)] using hg s c

theorem load_passesCode (n : Nat) (ext : BitVec (8 * n) → Word) (rt base : Reg) (offset : Imm16) :
    PassesCode (load n ext rt base offset) := by
  intro s c
  cases h : accessOk s.params (s.effAddr base offset) n with
  | true => exact ⟨_, load_of_accessOk ext rt h, load_of_accessOk (s := s.withCode c) ext rt h⟩
  | false => exact ⟨_, load_of_not_accessOk ext rt h, load_of_not_accessOk (s := s.withCode c) ext rt h⟩

theorem store_passesCode (n : Nat) (rt base : Reg) (offset : Imm16) : PassesCode (store n rt base offset) := by
  intro s c
  cases h : accessOk s.params (s.effAddr base offset) n with
  | true => exact ⟨_, store_of_accessOk rt h, store_of_accessOk (s := s.withCode c) rt h⟩
  | false => exact ⟨_, store_of_not_accessOk rt h, store_of_not_accessOk (s := s.withCode c) rt h⟩

theorem exec_passesCode (i : Instr) : PassesCode (exec i) := by
  cases i with
  | add | addi | dadd | daddi | sub | dsub => exact fun s => writeOrTrap_passesCode _ _ s
  | addu | addiu | daddu | daddiu | subu | dsubu => exact fun _ _ => ⟨_, rfl, rfl⟩
  | and | andi | or | ori | xor | xori | lui => exact fun _ _ => ⟨_, rfl, rfl⟩
  | sll | sllv | srl | srlv | sra | srav => exact fun _ _ => ⟨_, rfl, rfl⟩
  | dsll | dsllv | dsrl | dsrlv | dsra | dsrav => exact fun _ _ => ⟨_, rfl, rfl⟩
  | slt | slti | sltiu | sltu => exact fun _ _ => ⟨_, rfl, rfl⟩
  | movn | movz => exact .ite (fun _ _ => ⟨_, rfl, rfl⟩) (fun _ _ => ⟨_, rfl, rfl⟩) fun _ _ => Iff.rfl
  | mult | multu | dmult | dmultu => exact fun _ _ => ⟨_, rfl, rfl⟩
  | div | divu | ddiv | ddivu => exact .ite (fun _ _ => ⟨_, rfl, rfl⟩) (fun _ _ => ⟨_, rfl, rfl⟩) fun _ _ => Iff.rfl
  | mfhi | mflo => exact fun _ _ => ⟨_, rfl, rfl⟩
  | b | beq | beqz | bgez | bne | bnez | j | jr => exact fun _ _ => ⟨_, rfl, rfl⟩
  | jal | jalr => exact fun _ _ => ⟨_, rfl, rfl⟩
  | lb | lbu | ld | lh | lhu | lw | lwu => exact load_passesCode _ _ _ _ _
  | sw | sb | sd | sh => exact store_passesCode _ _ _ _
  | halt | nop => exact fun _ _ => ⟨_, rfl, rfl⟩

/-- Settles O24: every instruction passes the program on and does the same whatever it is. -/
theorem noInstructionTouchesTheProgram : Obligations.NoInstructionTouchesTheProgram := by
  intro i s t c ht
  obtain ⟨u, hu, hpass⟩ := exec_passesCode i s c
  rw [ht] at hu
  cases hu
  exact hpass

/-! ### Canonical memories (log 4) -/

theorem Memory.wf_cons {k : Nat} {b : Byte} {m : Memory} (h : Memory.wf ((k, b) :: m)) :
    (∀ c ∈ m, k < c.1) ∧ b ≠ Memory.unlisted ∧ Memory.wf m := by
  obtain ⟨hrising, hlisted⟩ := h
  obtain ⟨hhead, htail⟩ := List.pairwise_cons.1 hrising
  exact ⟨hhead, hlisted _ List.mem_cons_self, htail, fun c hc => hlisted c (List.mem_cons_of_mem _ hc)⟩

theorem Memory.read_head (k : Nat) (b : Byte) (m : Memory) : Memory.read ((k, b) :: m) k = b := if_pos rfl

theorem Memory.read_tail {k a : Nat} (b : Byte) (m : Memory) (h : a ≠ k) : Memory.read ((k, b) :: m) a = m.read a :=
  if_neg h

/-- Below the first listed address of one of two memories that read alike the other lists nothing. -/
theorem Memory.head_not_below {k j : Nat} {b c : Byte} {m m' : Memory} (h : Memory.wf ((k, b) :: m))
    (h' : Memory.wf ((j, c) :: m')) (hread : ∀ a, Memory.read ((k, b) :: m) a = Memory.read ((j, c) :: m') a) : ¬ k < j := by
  intro hlt
  obtain ⟨-, hb, -⟩ := Memory.wf_cons h
  obtain ⟨habove, -, -⟩ := Memory.wf_cons h'
  apply hb
  rw [← Memory.read_head k b m, hread k]
  refine Memory.read_below _ _ fun d hd => ?_
  rcases List.mem_cons.1 hd with rfl | hd
  · exact hlt
  · exact Nat.lt_trans hlt (habove d hd)

/-- Settles O26: the first listed addresses are equal, then their bytes, and then what follows reads alike. -/
theorem equalReadsMeanEqualMemory : Obligations.EqualReadsMeanEqualMemory := by
  intro m
  induction m with
  | nil =>
    intro m' _ h' hread
    cases m' with
    | nil => rfl
    | cons d m' =>
      obtain ⟨-, hb, -⟩ := Memory.wf_cons h'
      exact absurd ((hread d.1).trans (Memory.read_head d.1 d.2 m')).symm hb
  | cons c m ih =>
    obtain ⟨k, b⟩ := c
    intro m' h h' hread
    cases m' with
    | nil =>
      obtain ⟨-, hb, -⟩ := Memory.wf_cons h
      exact absurd ((Memory.read_head k b m).symm.trans (hread k)) hb
    | cons d m' =>
      obtain ⟨j, c⟩ := d
      obtain ⟨habove, -, hm⟩ := Memory.wf_cons h
      obtain ⟨habove', -, hm'⟩ := Memory.wf_cons h'
      have hkj : k = j := Nat.le_antisymm (Nat.le_of_not_lt (Memory.head_not_below h' h fun a => (hread a).symm))
        (Nat.le_of_not_lt (Memory.head_not_below h h' hread))
      subst hkj
      have hbc : b = c := by rw [← Memory.read_head k b m, hread k, Memory.read_head]
      rw [hbc, ih m' hm hm' fun a => ?_]
      by_cases ha : a = k
      · rw [ha, Memory.read_below m k habove, Memory.read_below m' k habove']
      · rw [← Memory.read_tail b m ha, hread a, Memory.read_tail c m' ha]

end Sys2Proof.Machine

/-! PROOFS. Addition, subtraction, ORI, XORI, LUI, the word shifts and the signed comparisons (spec/40_add_sub.md, spec/41_logical.md,
spec/42_shift.md, spec/43_compare_move.md), and which instructions overflow (spec/60_exceptions.md R301): each writes one register
back, and the six that R301 lists do so only if the exact result fits. -/

namespace Sys2Proof.Machine

open Sys2Proof.Claims

/-! ### Exact results (R113) -/

/-- A result that fits 32 signed bits is its own word result. -/
theorem wordResult_of_fits {x : Int} (h : -2 ^ 31 ≤ x ∧ x ≤ 2 ^ 31 - 1) : wordResult x = doubleResult x := by
  rw [wordResult, Int.bmod_eq_of_le (by omega) (by omega), doubleResult]

theorem givesOrOverflows_word {i : Instr} {s : State} {r : Reg} {x : Int} (hi : exec i s = writeOrTrap r (exactWord x) s) :
    GivesOrOverflows i s r x 32 := by
  rcases exactWord_cases x with ⟨hfits, hx⟩ | ⟨hover, hx⟩
  · refine ⟨fun _ => gives_of_writeBack ?_, fun hover => by omega⟩
    rw [hi, hx, ← wordResult_eq, wordResult_of_fits hfits]
    rfl
  · refine ⟨fun hfits => absurd hfits hover, fun _ => ?_⟩
    rw [hi, hx]
    rfl

theorem givesOrOverflows_double {i : Instr} {s : State} {r : Reg} {x : Int}
    (hi : exec i s = writeOrTrap r (exactDouble x) s) : GivesOrOverflows i s r x 64 := by
  rcases exactDouble_cases x with ⟨hfits, hx⟩ | ⟨hover, hx⟩
  · refine ⟨fun _ => gives_of_writeBack ?_, fun hover => by omega⟩
    rw [hi, hx]
    rfl
  · refine ⟨fun hfits => absurd hfits hover, fun _ => ?_⟩
    rw [hi, hx]
    rfl

/-- Settles O33: the word operands are read as signed, and the exact result is written or traps. -/
theorem wordAddSubIsExactOrTraps : Obligations.WordAddSubIsExactOrTraps := by
  intro s rd rs rt imm
  rw [signedWord_eq, signedWord_eq]
  exact ⟨givesOrOverflows_word rfl, givesOrOverflows_word rfl, givesOrOverflows_word rfl⟩

/-- Settles O34: the registers are read as signed, and the exact result is written or traps. -/
theorem doubleAddSubIsExactOrTraps : Obligations.DoubleAddSubIsExactOrTraps := fun _ _ _ _ _ =>
  ⟨givesOrOverflows_double rfl, givesOrOverflows_double rfl, givesOrOverflows_double rfl⟩

/-- Each of the six writes its exact result or traps, at its width. -/
theorem givesOrOverflows_of_exactResult {s : State} {i : Instr} {x : Int} {n : Nat} (h : exactResult s i = some (x, n)) :
    ∃ r, GivesOrOverflows i s r x n := by
  have hpair {y : Int} {k : Nat} (h : some (y, k) = some (x, n)) : y = x ∧ k = n := Prod.mk.inj (Option.some.inj h)
  cases i with
  | add rd rs rt =>
    obtain ⟨rfl, rfl⟩ := hpair h
    exact ⟨rd, (wordAddSubIsExactOrTraps s rd rs rt 0).1⟩
  | addi rt rs imm =>
    obtain ⟨rfl, rfl⟩ := hpair h
    exact ⟨rt, (wordAddSubIsExactOrTraps s 0 rs rt imm).2.1⟩
  | sub rd rs rt =>
    obtain ⟨rfl, rfl⟩ := hpair h
    exact ⟨rd, (wordAddSubIsExactOrTraps s rd rs rt 0).2.2⟩
  | dadd rd rs rt =>
    obtain ⟨rfl, rfl⟩ := hpair h
    exact ⟨rd, (doubleAddSubIsExactOrTraps s rd rs rt 0).1⟩
  | daddi rt rs imm =>
    obtain ⟨rfl, rfl⟩ := hpair h
    exact ⟨rt, (doubleAddSubIsExactOrTraps s 0 rs rt imm).2.1⟩
  | dsub rd rs rt =>
    obtain ⟨rfl, rfl⟩ := hpair h
    exact ⟨rd, (doubleAddSubIsExactOrTraps s rd rs rt 0).2.2⟩
  | _ => cases h

/-- An instruction that overflowed is one of the six. -/
theorem Does.exactResult_of_overflow {i : Instr} {s t : State} (h : Does i s t) (hs : s.status = .running)
    (ht : t.status = .fault .integerOverflow) : exactResult s i ≠ none := by
  cases h with
  | overflowed hx => exact hx
  | badAddress | ended => cases ht
  | wroteRegister | passed | wroteHiLo | drewHiLo | went | called | stored => cases hs.symm.trans ht

/-- Settles O31: an instruction that overflows is one of the six, and these complete in the run status they found when the exact
result fits. -/
theorem onlySixInstructionsOverflow : Obligations.OnlySixInstructionsOverflow := by
  intro i s t hs ht
  refine ⟨⟨fun hfault => ?_, fun ⟨x, n, hx, hover⟩ => ?_⟩, (exec_effect i s t ht).eq_trappedAt hs⟩
  · obtain ⟨⟨x, n⟩, hx⟩ := Option.ne_none_iff_exists'.1 ((exec_does ht).exactResult_of_overflow hs hfault)
    obtain ⟨r, hgives, -⟩ := givesOrOverflows_of_exactResult hx
    refine ⟨x, n, hx, ?_⟩
    by_contra hfits
    obtain ⟨u, hu, hwrites⟩ := hgives (by omega)
    cases ht.symm.trans hu
    have hrunning : t.status = .running := hwrites.status.trans hs
    cases hrunning.symm.trans hfault
  · obtain ⟨r, -, htraps⟩ := givesOrOverflows_of_exactResult hx
    cases ht.symm.trans (htraps hover)
    rfl

/-! ### Results modulo `2^32` (R112) -/

theorem ofInt_toInt_sub {w : Nat} (x y : BitVec w) : BitVec.ofInt w (x.toInt - y.toInt) = x - y := by
  rw [Int.sub_eq_add_neg, BitVec.ofInt_add, BitVec.ofInt_neg, BitVec.ofInt_toInt, BitVec.ofInt_toInt,
    ← BitVec.sub_eq_add_neg]

theorem ediv_emod_two_pow (x : Int) {w k n : Nat} (h : k + n ≤ w) : x % 2 ^ w / 2 ^ k % 2 ^ n = x / 2 ^ k % 2 ^ n := by
  obtain ⟨m, rfl⟩ := Nat.exists_eq_add_of_le h
  have hpow : (2 : Int) ^ (k + n + m) * (x / 2 ^ (k + n + m)) = 2 ^ k * (2 ^ n * (2 ^ m * (x / 2 ^ (k + n + m)))) := by
    rw [pow_add, pow_add, mul_assoc, mul_assoc]
  rw [Int.emod_def x, hpow, Int.sub_mul_ediv_left _ _ (by positivity), Int.sub_mul_emod_self_left]

/-- The bits of an integer from bit `k` on are those of its quotient by `2^k`. -/
theorem extractLsb'_ofInt (x : Int) {w k n : Nat} (h : k + n ≤ w) :
    (BitVec.ofInt w x).extractLsb' k n = BitVec.ofInt n (x / 2 ^ k) := by
  apply BitVec.eq_of_toNat_eq
  rw [BitVec.extractLsb'_toNat, BitVec.toNat_ofInt, BitVec.toNat_ofInt, Nat.shiftRight_eq_div_pow]
  zify
  rw [Int.toNat_of_nonneg (Int.emod_nonneg _ (by positivity)), Int.toNat_of_nonneg (Int.emod_nonneg _ (by positivity))]
  exact ediv_emod_two_pow x h

/-- The low word of the sign-extended immediate is the immediate modulo `2^32`. -/
theorem setWidth_signedImm (imm : Imm16) : (signedImm imm).setWidth 32 = BitVec.ofInt 32 imm.toInt := by
  rw [← doubleResult_imm, doubleResult, BitVec.setWidth_eq_extractLsb' (by decide), extractLsb'_ofInt _ (by decide),
    pow_zero, Int.ediv_one]

/-- Settles O35: the word operation on bit vectors is the exact one modulo `2^32`. -/
theorem wordAddSubUnsignedWraps : Obligations.WordAddSubUnsignedWraps := by
  intro s rd rs rt imm
  simp only [wordResult_eq, signedWord_eq, BitVec.ofInt_add, ofInt_toInt_sub, BitVec.ofInt_toInt, ← setWidth_signedImm]
  exact ⟨gives_of_writeBack rfl, gives_of_writeBack rfl, gives_of_writeBack rfl⟩

/-! ### Immediates (R54) -/

theorem ori_gives_bits (s : State) (rt rs : Reg) (imm : Imm16) :
    ∃ v, Gives (.ori rt rs imm) s rt v ∧
      ∀ k < 64, v.getLsbD k = ((s.reg rs).getLsbD k || (decide (k < 16) && imm.getLsbD k)) := by
  refine ⟨s.reg rs ||| zeroImm imm, gives_of_writeBack rfl, fun k hk => ?_⟩
  rw [BitVec.getLsbD_or, getLsbD_zeroImm imm hk]

theorem xori_gives_bits (s : State) (rt rs : Reg) (imm : Imm16) :
    ∃ v, Gives (.xori rt rs imm) s rt v ∧
      ∀ k < 64, v.getLsbD k = ((s.reg rs).getLsbD k != (decide (k < 16) && imm.getLsbD k)) := by
  refine ⟨s.reg rs ^^^ zeroImm imm, gives_of_writeBack rfl, fun k hk => ?_⟩
  rw [BitVec.getLsbD_xor, getLsbD_zeroImm imm hk]

/-- Sixteen zero bits below the immediate multiply its signed reading by 65536. -/
theorem upperImm_eq (imm : Imm16) : upperImm imm = doubleResult (imm.toInt * 65536) :=
  congrArg (BitVec.ofInt 64) ((BitVec.toInt_append_zero (x := imm) (m := 16)).trans (Int.mul_comm _ _))

/-- Settles O38: the immediate is zero-extended under ORI and XORI and shifted up and sign-extended under LUI. -/
theorem oriXoriAndLuiExtendTheirImmediate : Obligations.OriXoriAndLuiExtendTheirImmediate := fun s rt rs imm =>
  ⟨ori_gives_bits s rt rs imm, xori_gives_bits s rt rs imm, upperImm_eq imm ▸ gives_of_writeBack rfl⟩

/-! ### The word shifts by register (R142, R143) -/

theorem sllv_gives (s : State) (rd rt rs : Reg) :
    Gives (.sllv rd rt rs) s rd (wordResult (unsignedWord s rt * 2 ^ ((s.reg rs).toNat % 32))) := by
  rw [wordResult_eq, unsignedWord_eq, ofInt_toNat_mul_two_pow, ← wordAmount_eq]
  exact gives_of_writeBack rfl

theorem srlv_gives (s : State) (rd rt rs : Reg) :
    Gives (.srlv rd rt rs) s rd (wordResult (unsignedWord s rt / 2 ^ ((s.reg rs).toNat % 32))) := by
  rw [wordResult_eq, unsignedWord_eq, ofInt_toNat_div_two_pow, ← wordAmount_eq]
  exact gives_of_writeBack rfl

theorem srav_gives (s : State) (rd rt rs : Reg) :
    Gives (.srav rd rt rs) s rd (wordResult (signedWord s rt / 2 ^ ((s.reg rs).toNat % 32))) := by
  rw [wordResult_eq, signedWord_eq, ofInt_toInt_div_two_pow, ← wordAmount_eq]
  exact gives_of_writeBack rfl

/-- Settles O40: each of the six writes back the low word scaled by its power of two, sign-extended. -/
theorem wordShiftsScaleTheLowWord : Obligations.WordShiftsScaleTheLowWord := fun s rd rt rs sa =>
  ⟨sll_gives s rd rt sa, srl_gives s rd rt sa, sra_gives s rd rt sa,
    sllv_gives s rd rt rs, srlv_gives s rd rt rs, srav_gives s rd rt rs⟩

/-! ### The signed comparisons (R150, R151) -/

theorem toInt_signedImm (imm : Imm16) : (signedImm imm).toInt = imm.toInt :=
  BitVec.toInt_signExtend_of_le (by decide)

/-- Settles O42: both write back 1 or 0 as the signed comparison says, and sign extension keeps the immediate's value. -/
theorem signedComparisonsWriteOneOrZero : Obligations.SignedComparisonsWriteOneOrZero := by
  intro s rd rs rt imm
  rw [← toInt_signedImm, ← truth_decide, ← truth_decide]
  exact ⟨gives_of_writeBack rfl, gives_of_writeBack rfl⟩

end Sys2Proof.Machine

/-! PROOFS. Multiply and divide (spec/44_muldiv.md R160 to R167, R171 to R173): each writes HI and LO, a product the halves of the
exact integer, a divide the quotient rounded toward zero and its remainder, or two free values. -/

namespace Sys2Proof.Machine

open Sys2Proof.Claims

/-! ### Writing HI and LO -/

theorem setHiLo_advance_writesHiLo (s : State) (hi lo : Word) (n : Nat) :
    WritesHiLo s (((s.drawn n).setHi hi).setLo lo).advance hi lo n where
  hi := rfl
  lo := rfl
  draws := rfl
  regs _ := rfl
  bytes _ := rfl
  pc := rfl
  status := rfl
  params := rfl
  code := rfl

theorem givesHiLo_of_writeHiLo {i : Instr} {s : State} {hi lo : Word} (h : exec i s = writeHiLo hi lo s) :
    GivesHiLo i s hi lo :=
  ⟨_, h, setHiLo_advance_writesHiLo s hi lo 0⟩

/-! ### Products (R171) -/

/-- The halves of a 64-bit product, sign-extended. -/
theorem wordProduct_eq (p : Int) (s : State) :
    wordProduct p s = writeHiLo (if s.params.multWritesHi then wordResult (p / 2 ^ 32) else s.hi) (wordResult p) s := by
  rw [wordProduct, extractLsb'_ofInt p (by decide), extractLsb'_ofInt p (by decide), pow_zero, Int.ediv_one,
    ← wordResult_eq, ← wordResult_eq]
  rfl

/-- The halves of a 128-bit product. -/
theorem doubleProduct_eq (p : Int) (s : State) : doubleProduct p s =
    writeHiLo (if s.params.multWritesHi then doubleResult (p / 2 ^ 64) else s.hi) (doubleResult p) s := by
  rw [doubleProduct, extractLsb'_ofInt p (by decide), extractLsb'_ofInt p (by decide), pow_zero, Int.ediv_one]
  rfl

/-- Settles O45: the word operands are read as signed or as unsigned, and the halves of their product are written. -/
theorem wordMultiplyWritesBothHalves : Obligations.WordMultiplyWritesBothHalves := by
  intro s rs rt
  simp only [signedWord_eq, unsignedWord_eq]
  exact ⟨givesHiLo_of_writeHiLo (wordProduct_eq _ s), givesHiLo_of_writeHiLo (wordProduct_eq _ s)⟩

/-- Settles O46: the registers are read as signed or as unsigned, and the halves of their product are written. -/
theorem doubleMultiplyWritesBothHalves : Obligations.DoubleMultiplyWritesBothHalves := fun s _ _ =>
  ⟨givesHiLo_of_writeHiLo (doubleProduct_eq _ s), givesHiLo_of_writeHiLo (doubleProduct_eq _ s)⟩

/-! ### Quotients and remainders (R172) -/

theorem remainder_eq_tmod (a b : Int) : remainder a b = a.tmod b := by
  rw [remainder, quotient, Int.tmod_def, Int.mul_comm]

theorem isDivision_quotient_remainder (a : Int) {b : Int} (hb : b ≠ 0) :
    IsDivision a b (quotient a b) (remainder a b) := by
  rw [remainder_eq_tmod]
  refine ⟨(Int.tdiv_mul_add_tmod a b).symm, ?_, fun ha => Int.tmod_nonneg b ha, fun ha => ?_⟩
  · rw [Int.abs_eq_natAbs, Int.abs_eq_natAbs, Int.natAbs_tmod]
    exact_mod_cast Nat.mod_lt _ (Int.natAbs_pos.2 hb)
  · have hneg := Int.tmod_nonneg b (Int.neg_nonneg_of_nonpos ha)
    rw [Int.neg_tmod] at hneg
    exact Int.nonpos_of_neg_nonneg hneg

theorem wordDivide_eq (a : Int) {b : Int} (hb : b ≠ 0) (s : State) :
    wordDivide a b s = writeHiLo (wordResult (remainder a b)) (wordResult (quotient a b)) s := by
  rw [wordResult_eq, wordResult_eq]
  exact if_neg hb

theorem doubleDivide_eq (a : Int) {b : Int} (hb : b ≠ 0) (s : State) :
    doubleDivide a b s = writeHiLo (doubleResult (remainder a b)) (doubleResult (quotient a b)) s :=
  if_neg hb

theorem givesHiLo_of_wordDivide {i : Instr} {s : State} {a b : Int} (hi : exec i s = wordDivide a b s) (hb : b ≠ 0) :
    ∃ q r, IsDivision a b q r ∧ GivesHiLo i s (wordResult r) (wordResult q) :=
  ⟨_, _, isDivision_quotient_remainder a hb, givesHiLo_of_writeHiLo (hi.trans (wordDivide_eq a hb s))⟩

theorem givesHiLo_of_doubleDivide {i : Instr} {s : State} {a b : Int} (hi : exec i s = doubleDivide a b s) (hb : b ≠ 0) :
    ∃ q r, IsDivision a b q r ∧ GivesHiLo i s (doubleResult r) (doubleResult q) :=
  ⟨_, _, isDivision_quotient_remainder a hb, givesHiLo_of_writeHiLo (hi.trans (doubleDivide_eq a hb s))⟩

/-- The most negative word divided by -1 (R173). -/
theorem wordDivide_wraps (s : State) : wordDivide (-2 ^ 31) (-1) s = writeHiLo 0 0xFFFFFFFF80000000 s := by
  rw [wordDivide_eq _ (by decide)]
  rfl

/-- The most negative doubleword divided by -1 (R173). -/
theorem doubleDivide_wraps (s : State) : doubleDivide (-2 ^ 63) (-1) s = writeHiLo 0 0x8000000000000000 s := by
  rw [doubleDivide_eq _ (by decide)]
  rfl

/-- Settles O47: a divisor that is not zero gives the quotient and remainder of R172; at the most negative value and -1 they are
evaluated. -/
theorem divideWritesQuotientAndRemainder : Obligations.DivideWritesQuotientAndRemainder := by
  intro s rs rt
  simp only [signedWord_eq, unsignedWord_eq]
  refine ⟨givesHiLo_of_wordDivide rfl, givesHiLo_of_wordDivide rfl, givesHiLo_of_doubleDivide rfl,
    givesHiLo_of_doubleDivide rfl, fun ha hb => ?_, fun ha hb => ?_⟩
  · refine givesHiLo_of_writeHiLo (Eq.trans ?_ (wordDivide_wraps s))
    rw [← ha, ← hb]
    rfl
  · refine givesHiLo_of_writeHiLo (Eq.trans ?_ (doubleDivide_wraps s))
    rw [← ha, ← hb]
    rfl

/-! ### Division by zero (R173) -/

theorem word_eq_zero {s : State} {r : Reg} (h : (s.reg r).toNat % 2 ^ 32 = 0) : s.word r = 0 :=
  BitVec.eq_of_toNat_eq ((BitVec.toNat_setWidth 32 (s.reg r)).trans h)

/-- Settles O48: each of the four reads the zero divisor as 0, and then two free values are drawn. -/
theorem divideByZeroDrawsFreeValues : Obligations.DivideByZeroDrawsFreeValues := by
  intro s rs rt i h
  have hdraws : exec i s = writeAnyHiLo s := by
    rcases h with ⟨rfl | rfl, hzero⟩ | ⟨rfl | rfl, hzero⟩
    · exact if_pos (by rw [word_eq_zero hzero]; rfl)
    · exact if_pos (by rw [word_eq_zero hzero]; rfl)
    · exact if_pos (by rw [hzero]; rfl)
    · exact if_pos (by rw [hzero]; rfl)
  exact ⟨_, hdraws, setHiLo_advance_writesHiLo s _ _ 2⟩

end Sys2Proof.Machine

/-! PROOFS. Branches and jumps (spec/45_branch_jump.md R180 to R192): a branch or a jump sets the pc, a call writes its link register
too, and nothing else changes. -/

namespace Sys2Proof.Machine

open Sys2Proof.Claims

/-! ### Going and calling -/

theorem setPc_goesTo (s : State) (target : Word) : GoesTo s (s.setPc target) target where
  pc := rfl
  regs _ := rfl
  hi := rfl
  lo := rfl
  bytes _ := rfl
  status := rfl
  params := rfl
  code := rfl
  draws := rfl

theorem setReg_setPc_callsTo (s : State) (r : Reg) (target : Word) :
    CallsTo s ((s.setReg r (s.pc + 4)).setPc target) r target where
  link := State.setReg_reg_same s r _
  zero := State.reg_zero _
  pc := rfl
  others q := State.setReg_reg_other s r q _
  hi := rfl
  lo := rfl
  bytes _ := rfl
  status := rfl
  params := rfl
  code := rfl
  draws := rfl

section Transfers
variable {i : Instr} {s : State} {target : Word}

theorem goes_of_jump (h : exec i s = jump target s) : Goes i s target :=
  ⟨_, h, setPc_goesTo s target⟩

theorem calls_of_call {r : Reg} (h : exec i s = call r target s) : ∃ t, exec i s = .next t ∧ CallsTo s t r target :=
  ⟨_, h, setReg_setPc_callsTo s r target⟩

/-- A branch on the condition `c`. -/
theorem goes_of_branch {c : Prop} [Decidable c] (h : exec i s = branch (decide c) target s) :
    Goes i s (if c then target else s.pc + 4) := by
  refine ⟨_, h, ?_⟩
  simp only [decide_eq_true_eq]
  exact setPc_goesTo s _

/-- A branch on the negation of the condition `c`. -/
theorem goes_of_branch_not {c : Prop} [Decidable c] (h : exec i s = branch (decide (¬ c)) target s) :
    Goes i s (if c then s.pc + 4 else target) := by
  rw [← ite_not]
  exact goes_of_branch h

end Transfers

/-! ### The branches (R182 to R187) -/

/-- The condition of BGEZ is that the sign bit is not set. -/
theorem nonneg_iff_not_getLsbD (x : Word) : 0 ≤ x.toInt ↔ ¬ x.getLsbD 63 = true := by
  rw [← BitVec.msb_eq_getLsbD_last, BitVec.msb_eq_toInt, decide_eq_true_eq, Int.not_lt]

/-- Settles O50: the condition decides between the two addresses, and the target is the model's. -/
theorem branchesGoToTargetOrNext : Obligations.BranchesGoToTargetOrNext := by
  intro s rs rt offset
  rw [← branchTarget_eq]
  refine ⟨goes_of_jump rfl, goes_of_branch rfl, goes_of_branch_not rfl, goes_of_branch rfl, goes_of_branch_not rfl,
    goes_of_branch_not ?_⟩
  exact congrArg (fun taken => branch taken (s.branchTarget offset) s)
    (decide_eq_decide.2 (nonneg_iff_not_getLsbD (s.reg rs)))

/-- Settles O51: the jumps set the pc, to the model's target or to the old value of `x[rs]`, and the calls link. -/
theorem jumpsGoToTargetAndLink : Obligations.JumpsGoToTargetAndLink := by
  intro s rd rs index
  rw [← jumpTarget_eq]
  exact ⟨goes_of_jump rfl, calls_of_call rfl, goes_of_jump rfl, calls_of_call rfl⟩

end Sys2Proof.Machine

/-! PROOFS. Loads and stores (spec/20_memory.md R30 to R34, spec/46_load_store.md R200 to R212): each load and each store is the one
shared operation at its width, whose bytes are those of memory in the places of the byte order. -/

namespace Sys2Proof.Machine

open Sys2Proof.Claims

/-! ### The shared operations at the forms of the statements -/

/-- The 64-bit value of a load: sign-extended or zero-extended (R33). -/
def extendValue (m : MemForm) (v : BitVec (8 * m.size)) : Word := if m.signed then v.signExtend 64 else v.setWidth 64

theorem exec_of_loadForm {i : Instr} {m : MemForm} (h : loadForm i = some m) (s : State) :
    exec i s = load m.size (extendValue m) m.rt m.base m.offset s := by
  cases i with
  | lb | lbu | lh | lhu | lw | lwu => cases h; rfl
  | ld rt offset base =>
    cases h
    exact congrArg (fun ext => load 8 ext rt base offset s) (funext fun v => (BitVec.setWidth_eq v).symm)
  | _ => cases h

theorem exec_of_storeForm {i : Instr} {m : MemForm} (h : storeForm i = some m) (s : State) :
    exec i s = store m.size m.rt m.base m.offset s := by
  cases i with
  | sb | sh | sw | sd => cases h; rfl
  | _ => cases h

theorem size_of_loadForm {i : Instr} {m : MemForm} (h : loadForm i = some m) : 0 < m.size ∧ m.size ≤ 8 := by
  cases i with
  | lb | lbu | lh | lhu | lw | lwu | ld => cases h; simp
  | _ => cases h

/-- The access of the statements is good when the model's check passes. -/
theorem accessOk_iff_good (m : MemForm) (s : State) : accessOk s.params (s.effAddr m.base m.offset) m.size = true ↔ m.good s :=
  accessOk_iff _ _ _

theorem accessOk_eq_false {m : MemForm} {s : State} (h : ¬ m.good s) :
    accessOk s.params (s.effAddr m.base m.offset) m.size = false :=
  Bool.eq_false_iff.2 (mt (accessOk_iff_good m s).1 h)

/-- Settles O54: the shared operations trap with the effective address, whatever the register. -/
theorem badAccessesTrapWithTheirAddress : Obligations.BadAccessesTrapWithTheirAddress := fun _ s m hbad =>
  ⟨fun h => (exec_of_loadForm h s).trans (load_of_not_accessOk _ m.rt (accessOk_eq_false hbad)),
    fun h => (exec_of_storeForm h s).trans (store_of_not_accessOk m.rt (accessOk_eq_false hbad))⟩

/-! ### Byte order (R30) -/

theorem lowestBit_eq (e : Endian) (n k : Nat) : lowestBit e n k = laneBit e n k := by
  cases e <;> rfl

theorem laneBit_add_le (e : Endian) {n k : Nat} (hk : k < n) : laneBit e n k + 8 ≤ 8 * n := by
  cases e <;> simp only [laneBit] <;> omega

/-- Every bit of a value is in the lane of some byte. -/
theorem exists_lane (e : Endian) {n j : Nat} (hj : j < 8 * n) : ∃ k < n, laneBit e n k ≤ j ∧ j < laneBit e n k + 8 := by
  cases e with
  | little => exact ⟨j / 8, by omega, by simp only [laneBit]; omega⟩
  | big => exact ⟨n - 1 - j / 8, by omega, by simp only [laneBit]; omega⟩

/-- Values with the same bytes are equal. -/
theorem eq_of_bytes (e : Endian) {n : Nat} {x y : BitVec (8 * n)}
    (h : ∀ k < n, x.extractLsb' (laneBit e n k) 8 = y.extractLsb' (laneBit e n k) 8) : x = y := by
  apply BitVec.eq_of_getLsbD_eq
  intro j hj
  obtain ⟨k, hk, hle, hlt⟩ := exists_lane e hj
  have hbit := congrArg (BitVec.getLsbD · (j - laneBit e n k)) (h k hk)
  have hin : j - laneBit e n k < 8 := by omega
  simpa [BitVec.getLsbD_extractLsb', hin, Nat.add_sub_cancel' hle] using hbit

/-- A load gives back the value that a store of its width left at its address. -/
theorem loadValue_storeValue (e : Endian) (mem : Memory) (a n : Nat) (v : BitVec (8 * n)) (h : Memory.wf mem) :
    (mem.storeValue e a n v).loadValue e a n = v := by
  refine eq_of_bytes e fun k hk => ?_
  rw [Memory.loadValue_byte _ _ _ _ _ hk, Memory.read_storeValue _ _ _ _ _ _ h, if_pos (by omega), Nat.add_sub_cancel_left]

/-! ### Extension (R33) -/

/-- The bits of an extended value: those of the value, and above them zeros or copies of its sign bit. -/
theorem getLsbD_extendValue (m : MemForm) (v : BitVec (8 * m.size)) {j : Nat} (hj : j < 64) :
    (extendValue m v).getLsbD j = if j < 8 * m.size then v.getLsbD j else (m.signed && v.msb) := by
  unfold extendValue
  cases m.signed with
  | true => simp only [if_true, BitVec.getLsbD_signExtend, hj, decide_true, Bool.true_and]
  | false =>
    simp only [Bool.false_eq_true, if_false, BitVec.getLsbD_setWidth, hj, decide_true, Bool.true_and, Bool.false_and]
    split
    · rfl
    · exact BitVec.getLsbD_of_ge v j (by omega)

theorem extractLsb'_extendValue (m : MemForm) (v : BitVec (8 * m.size)) {l : Nat} (hl : l + 8 ≤ 8 * m.size)
    (hsize : m.size ≤ 8) : (extendValue m v).extractLsb' l 8 = v.extractLsb' l 8 := by
  apply BitVec.eq_of_getLsbD_eq
  intro j hj
  rw [BitVec.getLsbD_extractLsb', BitVec.getLsbD_extractLsb', getLsbD_extendValue m v (by omega), if_pos (by omega)]

theorem extractLsb'_setWidth (x : Word) {l n : Nat} (hl : l + 8 ≤ n) : (x.setWidth n).extractLsb' l 8 = x.extractLsb' l 8 := by
  apply BitVec.eq_of_getLsbD_eq
  intro j hj
  have hin : l + j < n := by omega
  simp [BitVec.getLsbD_extractLsb', hin]

/-- The low bits of a register, extended: its value modulo the width, read as signed or as unsigned. -/
theorem extendValue_setWidth (m : MemForm) (x : Word) : extendValue m (x.setWidth (8 * m.size)) =
    if m.signed then BitVec.ofInt 64 (Int.bmod x.toNat (2 ^ (8 * m.size)))
    else BitVec.ofNat 64 (x.toNat % 2 ^ (8 * m.size)) := by
  unfold extendValue BitVec.signExtend
  rw [BitVec.toInt_setWidth, ← BitVec.toNat_setWidth, BitVec.ofNat_toNat]

/-! ### Good loads and stores -/

theorem exec_good_load {i : Instr} {m : MemForm} {s : State} (h : loadForm i = some m) (hgood : m.good s) :
    exec i s = writeBack m.rt (extendValue m (s.mem.loadValue s.params.endian (m.address s).toNat m.size)) s :=
  (exec_of_loadForm h s).trans (load_of_accessOk _ m.rt ((accessOk_iff_good m s).2 hgood))

theorem exec_good_store {i : Instr} {m : MemForm} {s : State} (h : storeForm i = some m) (hgood : m.good s) :
    exec i s = complete (s.setMem
      (s.mem.storeValue s.params.endian (m.address s).toNat m.size ((s.reg m.rt).setWidth (8 * m.size)))) :=
  (exec_of_storeForm h s).trans (store_of_accessOk m.rt ((accessOk_iff_good m s).2 hgood))

/-- Settles O52: the value written is the extension of the value whose bytes are those of memory. -/
theorem loadsReadTheBytesOfMemory : Obligations.LoadsReadTheBytesOfMemory := by
  intro i s m h hgood
  obtain ⟨hpos, hsize⟩ := size_of_loadForm h
  refine ⟨_, gives_of_writeBack (exec_good_load h hgood), fun k hk => ?_, fun j hle hlt => ?_⟩
  · rw [lowestBit_eq, extractLsb'_extendValue m _ (laneBit_add_le _ hk) hsize, Memory.loadValue_byte _ _ _ _ _ hk]
  · rw [getLsbD_extendValue m _ hlt, if_neg (by omega), getLsbD_extendValue m _ (by omega), if_pos (by omega),
      BitVec.msb_eq_getLsbD_last]

/-- Settles O53: the store writes the bytes of its access and leaves the rest of the state. -/
theorem storesWriteExactlyTheirBytes : Obligations.StoresWriteExactlyTheirBytes := by
  intro i s m hinv h hgood
  refine ⟨_, exec_good_store h hgood, fun k hk => ?_, fun a ha => ?_, fun _ => rfl, rfl, rfl, rfl, rfl, rfl, rfl, rfl⟩
  · rw [State.advance_mem, State.setMem_mem, Memory.read_storeValue _ _ _ _ _ _ hinv.memWf, if_pos (by omega),
      Nat.add_sub_cancel_left, extractLsb'_setWidth _ (laneBit_add_le _ hk), lowestBit_eq]
  · rw [State.advance_mem, State.setMem_mem, Memory.read_storeValue _ _ _ _ _ _ hinv.memWf, if_neg (by omega)]

/-- Settles O55: the store leaves the address and its being good, so the load gives back the stored low bits, extended. -/
theorem loadAfterStoreGivesTheStoredValue : Obligations.LoadAfterStoreGivesTheStoredValue := by
  intro s i j m l hinv hstore hload hgood hsize hbase hoffset
  obtain ⟨n, signed, rt, offset, base⟩ := l
  obtain rfl : n = m.size := hsize
  obtain rfl : base = m.base := hbase
  obtain rfl : offset = m.offset := hoffset
  refine ⟨_, _, exec_good_store hstore hgood, exec_good_load hload hgood, fun hrt => ?_⟩
  rw [State.advance_reg, State.setReg_reg_same _ _ _ hrt, ← extendValue_setWidth]
  exact congrArg (extendValue _) (loadValue_storeValue _ _ _ _ _ hinv.memWf)

end Sys2Proof.Machine

/-! PROOFS. The assembler (spec/30_encoding.md R64, R66 to R69): it reads an operand exactly when the operand's check passes, so it
accepts exactly the well-formed lines; it reads back the operands of an instruction's own line; and the field it computes for a
label leads a branch or a jump to that label. -/

namespace Sys2Proof.Machine

open Sys2Proof.Claims

/-! ### Operands that are read (R68, R69) -/

theorem isSome_ite {α : Type} {c : Prop} [Decidable c] (x : α) : (if c then some x else none).isSome = decide c := by
  by_cases h : c <;> simp [h]

theorem toReg_isSome (x : AsmOperand) : x.toReg.isSome = x.isReg := by
  cases x with
  | reg n => by_cases h : n < 32 <;> simp [AsmOperand.toReg, AsmOperand.isReg, h]
  | num | label | mem => rfl

theorem signedField_isSome (v : Int) : (signedField v).isSome = fitsSignedField v := by
  rw [signedField, isSome_ite, Bool.decide_eq_true]

theorem signed_isSome (x : AsmOperand) : x.signed.isSome = x.isSigned := by
  cases x with
  | num v => exact signedField_isSome v
  | reg | label | mem => rfl

theorem unsigned_isSome (x : AsmOperand) : x.unsigned.isSome = x.isUnsigned := by
  cases x with
  | num v => exact isSome_ite _
  | reg | label | mem => rfl

theorem shift_isSome (x : AsmOperand) : x.shift.isSome = x.isShift := by
  cases x with
  | num v => exact isSome_ite _
  | reg | label | mem => rfl

theorem memory_isSome (x : AsmOperand) : x.memory.isSome = x.isMem := by
  cases x with
  | mem v n =>
    have hbase : (AsmOperand.toReg (.reg n)).isSome = decide (n < 32) := toReg_isSome (.reg n)
    rw [AsmOperand.isMem, ← signedField_isSome, ← hbase, AsmOperand.memory]
    cases signedField v <;> cases AsmOperand.toReg (.reg n) <;> rfl
  | reg | num | label => rfl

theorem branchField_isSome (pc : Word) (x : AsmOperand) : (x.branchField pc).isSome = x.isBranchTarget pc := by
  cases x with
  | num v => exact signedField_isSome v
  | label l => exact isSome_ite _
  | reg | mem => rfl

theorem jumpField_isSome (pc : Word) (x : AsmOperand) : (x.jumpField pc).isSome = x.isJumpTarget pc := by
  cases x with
  | num v => exact isSome_ite _
  | label l => exact isSome_ite _
  | reg | mem => rfl

/-! ### Operand lists that are read (R67) -/

/-- The operands of `OP x`. -/
def isOnly (g : AsmOperand → Bool) : List AsmOperand → Bool
  | [a] => g a
  | _ => false

/-- The operands of `OP r, x`. -/
def isOneReg (g : AsmOperand → Bool) : List AsmOperand → Bool
  | [a, b] => a.isReg && g b
  | _ => false

/-- The operands of `OP r, r, x`. -/
def isTwoRegs (g : AsmOperand → Bool) : List AsmOperand → Bool
  | [a, b, c] => a.isReg && b.isReg && g c
  | _ => false

/-- The operands of JALR. -/
def isLinked : List AsmOperand → Bool
  | [a] => a.isReg
  | ops => isOneReg AsmOperand.isReg ops

/-- The operands that a class of R67 allows. -/
def acceptedBy (pc : Word) : SyntaxClass → List AsmOperand → Bool
  | .rdRsRt | .rdRtRs => isTwoRegs AsmOperand.isReg
  | .rtRsSigned => isTwoRegs AsmOperand.isSigned
  | .rtRsUnsigned => isTwoRegs AsmOperand.isUnsigned
  | .rtUnsigned => isOneReg AsmOperand.isUnsigned
  | .rdRtSa => isTwoRegs AsmOperand.isShift
  | .rsRt => isOneReg AsmOperand.isReg
  | .rdOnly | .rsOnly => isOnly AsmOperand.isReg
  | .rsRtBranch => isTwoRegs (AsmOperand.isBranchTarget pc)
  | .rsBranch => isOneReg (AsmOperand.isBranchTarget pc)
  | .branchOnly => isOnly (AsmOperand.isBranchTarget pc)
  | .jumpTarget => isOnly (AsmOperand.isJumpTarget pc)
  | .linkRegister => isLinked
  | .rtMem => isOneReg AsmOperand.isMem
  | .bare => List.isEmpty

/-- The model's check of a line, by the number of operands. -/
theorem wellFormed_eq (pc : Word) (m : Mnemonic) (ops : List AsmOperand) :
    AsmLine.wellFormed pc ⟨m, ops⟩ = acceptedBy pc m.syntaxClass ops := by
  unfold AsmLine.wellFormed
  generalize m.syntaxClass = c
  obtain _ | ⟨_, _ | ⟨_, _ | ⟨_, _ | ⟨_, _⟩⟩⟩⟩ := ops <;> cases c <;> rfl

section Lists
variable {α : Type} {f : AsmOperand → Option α} {g : AsmOperand → Bool}

theorem only_isSome (hf : ∀ x, (f x).isSome = g x) (k : α → Instr) (ops : List AsmOperand) :
    (only f k ops).isSome = isOnly g ops := by
  match ops with
  | [a] => simp only [only, isOnly, Option.isSome_map, hf]
  | [] | _ :: _ :: _ => rfl

theorem oneReg_isSome (hf : ∀ x, (f x).isSome = g x) (k : Reg → α → Instr) (ops : List AsmOperand) :
    (oneReg f k ops).isSome = isOneReg g ops := by
  match ops with
  | [a, b] =>
    simp only [oneReg, isOneReg, ← toReg_isSome, ← hf]
    cases AsmOperand.toReg a <;> cases f b <;> rfl
  | [] | [_] | _ :: _ :: _ :: _ => rfl

theorem twoRegs_isSome (hf : ∀ x, (f x).isSome = g x) (k : Reg → Reg → α → Instr) (ops : List AsmOperand) :
    (twoRegs f k ops).isSome = isTwoRegs g ops := by
  match ops with
  | [a, b, c] =>
    simp only [twoRegs, isTwoRegs, ← toReg_isSome, ← hf]
    cases AsmOperand.toReg a <;> cases AsmOperand.toReg b <;> cases f c <;> rfl
  | [] | [_] | [_, _] | _ :: _ :: _ :: _ :: _ => rfl

end Lists

theorem linked_isSome (k : Reg → Reg → Instr) (ops : List AsmOperand) : (linked k ops).isSome = isLinked ops := by
  match ops with
  | [a] => simp only [linked, isLinked, Option.isSome_map, toReg_isSome]
  | [] => rfl
  | a :: b :: ops => exact oneReg_isSome toReg_isSome k (a :: b :: ops)

theorem bare_isSome (i : Instr) (ops : List AsmOperand) : (if ops = [] then some i else none).isSome = ops.isEmpty := by
  cases ops <;> rfl

/-- Settles O8: the operand list of each mnemonic is read exactly when its class of R67 allows it. -/
theorem assemblerAcceptsExactlyWellFormedLines : Obligations.AssemblerAcceptsExactlyWellFormedLines := by
  intro pc l
  obtain ⟨m, ops⟩ := l
  rw [wellFormed_eq]
  cases m with
  | add | addu | sub | subu | dadd | daddu | dsub | dsubu | and | or | xor | slt | sltu | movn | movz =>
    exact twoRegs_isSome toReg_isSome _ ops
  | sllv | srlv | srav | dsllv | dsrlv | dsrav => exact twoRegs_isSome toReg_isSome _ ops
  | addi | addiu | daddi | daddiu | slti | sltiu => exact twoRegs_isSome signed_isSome _ ops
  | andi | ori | xori => exact twoRegs_isSome unsigned_isSome _ ops
  | lui => exact oneReg_isSome unsigned_isSome _ ops
  | sll | srl | sra | dsll | dsrl | dsra => exact twoRegs_isSome shift_isSome _ ops
  | mult | multu | dmult | dmultu | div | divu | ddiv | ddivu => exact oneReg_isSome toReg_isSome _ ops
  | mfhi | mflo | jr => exact only_isSome toReg_isSome _ ops
  | beq | bne => exact twoRegs_isSome (branchField_isSome pc) _ ops
  | beqz | bnez | bgez => exact oneReg_isSome (branchField_isSome pc) _ ops
  | b => exact only_isSome (branchField_isSome pc) _ ops
  | j | jal => exact only_isSome (jumpField_isSome pc) _ ops
  | jalr => exact linked_isSome _ ops
  | lb | lbu | lh | lhu | lw | lwu | ld | sb | sh | sw | sd => exact oneReg_isSome memory_isSome _ ops
  | halt | nop => exact bare_isSome _ ops

/-! ### An instruction's own line (R55, R67, R69) -/

theorem signedField_toInt (imm : Imm16) : signedField imm.toInt = some imm := by
  have hlt := BitVec.toInt_lt (x := imm)
  have hle := BitVec.le_toInt imm
  have hfits : fitsSignedField imm.toInt = true := decide_eq_true (by omega)
  rw [signedField, if_pos hfits, BitVec.ofInt_toInt]

theorem unsigned_num_toNat (imm : Imm16) : AsmOperand.unsigned (.num imm.toNat) = some imm := by
  have hlt := imm.isLt
  rw [AsmOperand.unsigned, if_pos (by omega), BitVec.ofInt_natCast, BitVec.ofNat_toNat, BitVec.setWidth_eq]

theorem jumpField_num_toNat (pc : Word) (index : Index26) : AsmOperand.jumpField pc (.num index.toNat) = some index := by
  have hlt := index.isLt
  rw [AsmOperand.jumpField, if_pos (by omega), BitVec.ofInt_natCast, BitVec.ofNat_toNat, BitVec.setWidth_eq]

theorem memory_mem_toInt (offset : Imm16) (base : Reg) :
    AsmOperand.memory (.mem offset.toInt base.val) = some (offset, base) := by
  simp [AsmOperand.memory, signedField_toInt]

section Own
variable {α : Type} (f : AsmOperand → Option α) (x : AsmOperand)

theorem only_some {f : AsmOperand → Option α} {x : AsmOperand} {v : α} (hx : f x = some v) (k : α → Instr) :
    only f k [x] = some (k v) := by
  rw [only, hx]
  rfl

theorem oneReg_reg (k : Reg → α → Instr) (a : Reg) : oneReg f k [.reg a.val, x] = (f x).map (k a) := by
  cases h : f x <;> simp [oneReg, h]

theorem oneReg_reg_some {f : AsmOperand → Option α} {x : AsmOperand} {v : α} (hx : f x = some v) (k : Reg → α → Instr)
    (a : Reg) : oneReg f k [.reg a.val, x] = some (k a v) := by
  rw [oneReg_reg, hx]
  rfl

theorem twoRegs_reg (k : Reg → Reg → α → Instr) (a b : Reg) :
    twoRegs f k [.reg a.val, .reg b.val, x] = (f x).map (k a b) := by
  cases h : f x <;> simp [twoRegs, h]

end Own

theorem assemble_line (pc : Word) (i : Instr) : assemble pc i.line = some i := by
  cases i with
  | add | addu | sub | subu | dadd | daddu | dsub | dsubu | and | or | xor | slt | sltu | movn | movz =>
    exact threeRegs_reg _ _ _ _
  | sllv | srlv | srav | dsllv | dsrlv | dsrav => exact threeRegs_reg _ _ _ _
  | addi | addiu | daddi | daddiu | slti | sltiu => exact twoRegs_reg_some (signedField_toInt _) _ _ _
  | andi | ori | xori => exact twoRegs_reg_some (unsigned_num_toNat _) _ _ _
  | lui => exact oneReg_reg_some (unsigned_num_toNat _) _ _
  | sll | srl | sra | dsll | dsrl | dsra => exact twoRegs_reg_some (shift_num_val _) _ _ _
  | mult | multu | dmult | dmultu | div | divu | ddiv | ddivu | jalr => exact oneReg_reg_some (toReg_reg _) _ _
  | mfhi | mflo | jr => exact only_some (toReg_reg _) _
  | beq | bne => exact twoRegs_reg_some (signedField_toInt _) _ _ _
  | beqz | bnez | bgez => exact oneReg_reg_some (signedField_toInt _) _ _
  | b => exact only_some (signedField_toInt _) _
  | j index => exact only_some (jumpField_num_toNat pc index) .j
  | jal index => exact only_some (jumpField_num_toNat pc index) .jal
  | lb | lbu | lh | lhu | lw | lwu | ld | sb | sh | sw | sd => exact oneReg_reg_some (memory_mem_toInt _ _) _ _
  | halt | nop => rfl

/-- Settles O7: the assembler reads back an instruction's own line, and it accepts only well-formed lines. -/
theorem instructionLineAssemblesToItself : Obligations.InstructionLineAssemblesToItself := by
  refine fun pc => ⟨fun i => ⟨?_, assemble_line pc i⟩, fun rs => only_some (toReg_reg rs) (.jalr 31)⟩
  rw [← assemblerAcceptsExactlyWellFormedLines, assemble_line]
  rfl

/-! ### Labels (R68) -/

/-- The field of a label counts the instructions to it, so the branch target is the label. -/
theorem branchTarget_of_label {s : State} {l : Word} {offset : Imm16}
    (h : AsmOperand.branchField s.pc (.label l) = some offset) : s.branchTarget offset = l := by
  simp only [AsmOperand.branchField, Option.ite_none_right_eq_some, Option.some.injEq] at h
  obtain ⟨⟨hdvd, hle, hlt⟩, rfl⟩ := h
  rw [branchTarget_eq, branchTo, BitVec.toInt_ofInt, Int.bmod_eq_of_le (by omega) (by omega),
    Int.mul_ediv_cancel' (Int.dvd_of_emod_eq_zero hdvd), Int.add_assoc, ofInt_pc, BitVec.ofInt_add, branchDistance,
    BitVec.ofInt_toInt, ← BitVec.add_assoc]
  exact (add_comm _ _).trans (sub_add_cancel l (s.pc + 4))

theorem jumpTarget_of_label {s : State} {l : Word} {index : Index26}
    (h : AsmOperand.jumpField s.pc (.label l) = some index) : s.jumpTarget index = l := by
  simp only [AsmOperand.jumpField, Option.ite_none_right_eq_some, Option.some.injEq] at h
  obtain ⟨⟨hdvd, hregion⟩, rfl⟩ := h
  have hregion := congrArg BitVec.toNat hregion
  rw [jumpTarget_eq, regionTo]
  apply BitVec.eq_of_toNat_eq
  simp only [BitVec.extractLsb'_toNat, BitVec.toNat_ofNat, Nat.shiftRight_eq_div_pow] at hregion ⊢
  omega

/-- Settles O9: each line is assembled to its instruction with the label's field, and the field leads to the label. -/
theorem assembledLabelIsReached : Obligations.AssembledLabelIsReached := by
  intro s l a b i
  refine ⟨fun h => ?_, fun h => ?_, fun h => ?_, fun h => ?_, fun h => ?_, fun h => ?_, fun h => ?_, fun h => ?_⟩
  · obtain ⟨f, hf, rfl⟩ := Option.map_eq_some_iff.1 h
    exact branchTarget_of_label hf ▸ goes_of_jump rfl
  · obtain ⟨f, hf, rfl⟩ := Option.map_eq_some_iff.1 ((twoRegs_reg _ _ _ a b).symm.trans h)
    exact branchTarget_of_label hf ▸ goes_of_branch rfl
  · obtain ⟨f, hf, rfl⟩ := Option.map_eq_some_iff.1 ((twoRegs_reg _ _ _ a b).symm.trans h)
    exact branchTarget_of_label hf ▸ goes_of_branch rfl
  · obtain ⟨f, hf, rfl⟩ := Option.map_eq_some_iff.1 ((oneReg_reg _ _ _ a).symm.trans h)
    exact branchTarget_of_label hf ▸ goes_of_branch rfl
  · obtain ⟨f, hf, rfl⟩ := Option.map_eq_some_iff.1 ((oneReg_reg _ _ _ a).symm.trans h)
    exact branchTarget_of_label hf ▸ goes_of_branch rfl
  · obtain ⟨f, hf, rfl⟩ := Option.map_eq_some_iff.1 ((oneReg_reg _ _ _ a).symm.trans h)
    exact branchTarget_of_label hf ▸ goes_of_branch rfl
  · obtain ⟨f, hf, rfl⟩ := Option.map_eq_some_iff.1 h
    exact jumpTarget_of_label hf ▸ goes_of_jump rfl
  · obtain ⟨f, hf, rfl⟩ := Option.map_eq_some_iff.1 h
    exact jumpTarget_of_label hf ▸ calls_of_call rfl

end Sys2Proof.Machine
